-- ==== Sys2Proof/Word.lean ====
section
/-! DEFINITION. The word types of the engine: command and response words (30_encoding.md R70, 10_state.md R30),
bytes of a command word on a byte-wide host bus (20_memory.md R53), palette indexes and display colors
(00_scope.md R7: INDEX_BITS and COLOR_BITS are at most 32, so both fit a 32-bit carrier). -/

namespace Sys2Proof

/-- A command word or a response word. -/
abbrev Word := BitVec 32

/-- One byte of a command word. -/
abbrev Byte := BitVec 8

/-- A display color: its value is below `2 ^ COLOR_BITS`. -/
abbrev Color := BitVec 32

/-- A palette index: its value is below `2 ^ INDEX_BITS`. -/
abbrev Index := BitVec 32

end Sys2Proof
end

