-- ==== Sys2Proof/Syntax.lean ====
section
/-! DEFINITION. The host commands as syntax (30_encoding.md R73, R75): one constructor per mnemonic of
spec/opcode_table.json. The table's eleven ILLEGAL rows are one constructor that carries the word, as R75 writes it. -/

namespace Sys2Proof

/-- The registers of the read-only register map (30_encoding.md R77). -/
inductive Reg where
  | status
  | vpX
  | vpY
  | vpW
  | vpH
  | hcounter
  | vcounter
  | clockLo
  | clockHi
  | frameLines
  deriving DecidableEq, Repr

/-- A decoded host command (30_encoding.md R75). -/
inductive Instr where
  /-- `TICK`: advance one scanline (R112). -/
  | tick
  /-- `POWER`: reset the engine (R171). -/
  | power
  /-- `RDPIX x, y`: read one frame buffer cell (R172). -/
  | rdpix (x y : BitVec 14)
  /-- `RDREG r`: read one register (R173). -/
  | rdreg (r : Reg)
  /-- `RDREC y`: read one entry of the per-scanline record (R174). -/
  | rdrec (y : BitVec 14)
  /-- `ILLEGAL(word)`: any word that is no legal command (R73, R74, R75, R78). -/
  | illegal (word : Word)
  deriving DecidableEq, Repr

end Sys2Proof
end

