-- ==== Sys2Proof/WellFormed.lean ====
section
/-! DEFINITION. Which terms of `Instr` are commands. Every operand of a legal command fits its field by its type
(30_encoding.md R71, R72), so the one check is on `illegal`: it may only carry a word that the formats of R71 and
the register numbers of R78 leave illegal. Written from the fields (R71, R74), not from the decoder. -/

namespace Sys2Proof

/-- The word is one of the legal words of 30_encoding.md R75: its OP selects a format, every reserved bit of that
format is 0 (R71, R74), and a register number is at most 9 (R78). -/
def legalWord (w : Word) : Bool :=
  match (w.extractLsb' 28 4).toNat with
  | 1 => w.extractLsb' 0 28 == 0#28
  | 2 => w.extractLsb' 0 28 == 0#28
  | 3 => true
  | 4 => w.extractLsb' 8 20 == 0#20 && decide ((w.extractLsb' 0 8).toNat ≤ 9)
  | 5 => w.extractLsb' 14 14 == 0#14
  | _ => false

/-- The term is a command some word stands for (30_encoding.md R75). -/
def Instr.wellFormed : Instr → Bool
  | .tick => true
  | .power => true
  | .rdpix _ _ => true
  | .rdreg _ => true
  | .rdrec _ => true
  | .illegal w => !legalWord w

end Sys2Proof
end

