-- ==== Sys2Proof/Decode.lean ====
section
/-! DEFINITION. The decoder of command words (30_encoding.md R70 to R78), total on all 2^32 words; the encoder,
written from the formats of R71; and the byte layout of a word on a byte-wide bus (20_memory.md R53). -/

namespace Sys2Proof

/-- The register a number of the `REG` field names (30_encoding.md R77); 10 to 255 are reserved (R78). -/
def Reg.ofNumber (n : BitVec 8) : Option Reg :=
  match n.toNat with
  | 0 => some .status
  | 1 => some .vpX
  | 2 => some .vpY
  | 3 => some .vpW
  | 4 => some .vpH
  | 5 => some .hcounter
  | 6 => some .vcounter
  | 7 => some .clockLo
  | 8 => some .clockHi
  | 9 => some .frameLines
  | _ => none

/-- The number of a register (30_encoding.md R77). -/
def Reg.number : Reg → BitVec 8
  | .status => 0
  | .vpX => 1
  | .vpY => 2
  | .vpW => 3
  | .vpH => 4
  | .hcounter => 5
  | .vcounter => 6
  | .clockLo => 7
  | .clockHi => 8
  | .frameLines => 9

/-- A word selects a row of the opcode map when `word & mask = match` (30_encoding.md R73). -/
def selects (w mask pattern : Word) : Bool :=
  w &&& mask == pattern

/-- The command a word is (30_encoding.md R73, R75): the rows of the opcode map by match and mask, the register
number checked by R78, every other word illegal (R74). -/
def decode (w : Word) : Instr :=
  if selects w 0xFFFFFFFF#32 0x10000000#32 then .tick
  else if selects w 0xFFFFFFFF#32 0x20000000#32 then .power
  else if selects w 0xF0000000#32 0x30000000#32 then .rdpix (w.extractLsb' 0 14) (w.extractLsb' 14 14)
  else if selects w 0xFFFFFF00#32 0x40000000#32 then
    match Reg.ofNumber (w.extractLsb' 0 8) with
    | some r => .rdreg r
    | none => .illegal w
  else if selects w 0xFFFFC000#32 0x50000000#32 then .rdrec (w.extractLsb' 0 14)
  else .illegal w

/-- The word of a command (30_encoding.md R71, R73): OP, then the fields of its format from the top down. -/
def encode : Instr → Word
  | .tick => 1#4 ++ 0#28
  | .power => 2#4 ++ 0#28
  | .rdpix x y => 3#4 ++ y ++ x
  | .rdreg r => 4#4 ++ 0#20 ++ r.number
  | .rdrec y => 5#4 ++ 0#14 ++ y
  | .illegal w => w

/-- Why bytes are no command. -/
inductive DecodeError where
  /-- Fewer than four bytes: the port takes only whole words (20_memory.md R54). Safe: nothing runs. -/
  | truncated
  deriving DecidableEq, Repr

/-- The word that four bytes carry: byte 0 holds bits 7:0 (20_memory.md R53, decision D29). -/
def wordOfBytes (b0 b1 b2 b3 : Byte) : Word :=
  b3 ++ b2 ++ b1 ++ b0

/-- The four bytes of a word, byte 0 first (20_memory.md R53). -/
def bytesOfWord (w : Word) : List Byte :=
  [w.extractLsb' 0 8, w.extractLsb' 8 8, w.extractLsb' 16 8, w.extractLsb' 24 8]

/-- Decoding bytes: the first four are one word, the rest is handed back (30_encoding.md R70: one length). -/
def decodeBytes : List Byte → Except DecodeError (Instr × List Byte)
  | b0 :: b1 :: b2 :: b3 :: rest => .ok (decode (wordOfBytes b0 b1 b2 b3), rest)
  | _ => .error .truncated

/-- The command word whose low `nbits` bits are those of `w`, every bit above them 0. -/
def tableWord (nbits w : Nat) : Word :=
  BitVec.ofNat 32 (w % 2 ^ nbits)

/-- What the decoder reads from a row of spec/opcode_table.json whose bits are `w`. -/
def decodeTableWord (nbits w : Nat) : Option Instr :=
  match decodeBytes (bytesOfWord (tableWord nbits w)) with
  | .ok (i, _) => some i
  | .error _ => none

end Sys2Proof
end

