-- ==== Sys2Proof/Config.lean ====
section
/-! DEFINITION. What an implementation fixes and what the spec leaves free: the resolution modes, the configuration
record `cfg` (00_scope.md R7), the names of its checks (R8), and the two free values of the model. The derived
values (R9) and the checks themselves stand in Machine/Params.lean. -/

namespace Sys2Proof

/-- A resolution mode, "one of a small fixed set of horizontal pixel counts" (00_scope.md glossary). -/
inductive Mode where
  | w1
  | w2
  | w3
  deriving DecidableEq, Repr, Inhabited

/-- The configuration of 00_scope.md R7, fixed when the engine is loaded (10_state.md R36). -/
structure Cfg where
  /-- `DUAL`: chip B and the combiner are used. -/
  dual : Bool
  /-- `LINE_CYCLES`: the full nominal per-line cycle budget. -/
  lineCycles : Nat
  /-- `PRE_CYCLES`: the portion of the line before the active display window. -/
  preCycles : Nat
  /-- `NOMINAL_LINES`: the nominal vertical line count. -/
  nominalLines : Nat
  /-- `ACTIVE_START`: the first scanline of the active band. -/
  activeStart : Nat
  /-- `ACTIVE_HEIGHT`: the number of scanlines in the active band. -/
  activeHeight : Nat
  /-- `W1`: pixels of mode W1. -/
  w1 : Nat
  /-- `W2`: pixels of mode W2. -/
  w2 : Nat
  /-- `W3`: pixels of mode W3. -/
  w3 : Nat
  /-- `BUF_W`: columns of the frame buffer. -/
  bufW : Nat
  /-- `BUF_H`: rows of the frame buffer and entries of the record. -/
  bufH : Nat
  /-- `COLOR_BITS`: bits of a display color. -/
  colorBits : Nat
  /-- `INDEX_BITS`: bits of a palette index. -/
  indexBits : Nat
  deriving DecidableEq, Repr

/-- The checks of 00_scope.md R8, by the names the spec gives them. -/
inductive CfgCheck where
  | cfgLine
  | cfgPre
  | cfgLines
  | cfgBand
  | cfgWidths
  | cfgFit
  | cfgExact
  | cfgColor
  deriving DecidableEq, Repr

/-- FREE VALUE. The n-th answer of the oracle after the scripted answers of the state's `tape` have run out
(00_scope.md R12 `draw T`, 44_collaborator_interface.md R195 to R200, 43_host_commands.md R176). It has no body:
nothing in Lean can tell its value. DESIGN CHOICE (safe), notes/assumptions/3.md. -/
opaque Config.freeAnswer : Nat → Int

/-- FREE VALUE. The color that the frame buffer cell at row y, column x was given by the draw at load
(10_state.md R27, decision D40), as a raw number that the buffer cuts to `COLOR_BITS` bits.
DESIGN CHOICE (safe), notes/assumptions/4.md. -/
opaque Config.loadCell : Nat → Nat → Int

/-- The configuration of `State.reset`. W1, W3, ACTIVE_START and ACTIVE_HEIGHT are the spec's defaults
(00_scope.md R7, decisions D6 and D7). DUAL is given per load and the other fields are OPEN in the spec; the values here only name one
configuration that passes every check of R8: DESIGN CHOICE (unsafe), notes/assumptions/2.md. -/
def Config.atReset : Cfg where
  dual := false
  lineCycles := 10
  preCycles := 3
  nominalLines := 260
  activeStart := 21
  activeHeight := 239
  w1 := 256
  w2 := 128
  w3 := 512
  bufW := 512
  bufH := 264
  colorBits := 16
  indexBits := 8

end Sys2Proof
end

