-- ==== Sys2Proof/Machine/Params.lean ====
section
/-! DEFINITION. The values derived from the configuration (00_scope.md R9) and the checks a configuration must pass
(R8). -/

namespace Sys2Proof

/-- `WIDTH(m)` (00_scope.md R9). -/
def Cfg.width (c : Cfg) : Mode → Nat
  | .w1 => c.w1
  | .w2 => c.w2
  | .w3 => c.w3

/-- `CANONICAL_WIDTH`, the largest supported horizontal resolution (00_scope.md R9). -/
def Cfg.canonicalWidth (c : Cfg) : Nat :=
  max c.w1 (max c.w2 c.w3)

/-- `FACTOR(m)` (00_scope.md R9). -/
def Cfg.factor (c : Cfg) (m : Mode) : Nat :=
  c.canonicalWidth / c.width m

/-- `ACTIVE_END`, exclusive (00_scope.md R9). -/
def Cfg.activeEnd (c : Cfg) : Nat :=
  c.activeStart + c.activeHeight

/-- `POST_CYCLES` (00_scope.md R9). -/
def Cfg.postCycles (c : Cfg) : Nat :=
  c.lineCycles - c.preCycles

/-- `InBand(v)` (00_scope.md R9). -/
abbrev Cfg.InBand (c : Cfg) (v : Nat) : Prop :=
  c.activeStart ≤ v ∧ v < c.activeEnd

/-- The condition of each check of 00_scope.md R8. -/
def Cfg.passes (c : Cfg) : CfgCheck → Bool
  | .cfgLine => decide (1 ≤ c.lineCycles ∧ c.lineCycles ≤ 65535)
  | .cfgPre => decide (c.preCycles ≤ c.lineCycles)
  | .cfgLines => decide (1 ≤ c.nominalLines ∧ c.nominalLines ≤ c.bufH ∧ c.bufH ≤ 65535)
  | .cfgBand => decide (1 ≤ c.activeHeight ∧ c.activeStart + c.activeHeight ≤ c.bufH)
  | .cfgWidths =>
    decide (c.w1 ≠ c.w2 ∧ c.w1 ≠ c.w3 ∧ c.w2 ≠ c.w3 ∧ 1 ≤ c.w1 ∧ 1 ≤ c.w2 ∧ 1 ≤ c.w3)
  | .cfgFit => decide (c.canonicalWidth ≤ c.bufW ∧ c.bufW ≤ 65535)
  | .cfgExact =>
    decide (c.canonicalWidth % c.w1 = 0 ∧ c.canonicalWidth % c.w2 = 0 ∧ c.canonicalWidth % c.w3 = 0)
  | .cfgColor => decide (16 ≤ c.colorBits ∧ c.colorBits ≤ 32 ∧ 1 ≤ c.indexBits ∧ c.indexBits ≤ 32)

/-- The checks in the order 00_scope.md R8 lists them. -/
def Cfg.checks : List CfgCheck :=
  [.cfgLine, .cfgPre, .cfgLines, .cfgBand, .cfgWidths, .cfgFit, .cfgExact, .cfgColor]

/-- The first check of 00_scope.md R8 that the configuration fails, if any. -/
def Cfg.failing (c : Cfg) : Option CfgCheck :=
  Cfg.checks.find? (fun k => !c.passes k)

/-- The configuration is well formed: every check of 00_scope.md R8 holds. -/
abbrev Cfg.Ok (c : Cfg) : Prop :=
  c.failing = none

end Sys2Proof
end

