-- ==== Sys2Proof/Machine/State.lean ====
section
/-! DEFINITION. The state of the engine (10_state.md) as plain data, the events and fault records it logs, the reasons
a step can stop, and the state right after load (70_reset_and_hazards.md R240). -/

namespace Sys2Proof.Machine

/-- A sparse array: the listed elements, by rising index. Canonical form: indexes strictly rising (`Memory.wf`). -/
abbrev Memory (α : Type) := List (Nat × α)

/-- A pixel-source chip (00_scope.md glossary; 60_exceptions.md R225). -/
inductive Chip where
  | a
  | b
  deriving DecidableEq, Repr

/-- Where a palette index is read from: chip A or the combiner (44_collaborator_interface.md R198). -/
inductive IndexSource where
  | a
  | comb
  deriving DecidableEq, Repr

/-- A collaborator that POWER powers (44_collaborator_interface.md R201). -/
inductive PowerTarget where
  | a
  | b
  | comb
  | vce
  | dma
  deriving DecidableEq, Repr

/-- An entry of the event history (10_state.md R32). -/
inductive Event where
  | hsync (c : Chip)
  | vsync (c : Chip)
  | hclock (c : Chip)
  | vclock (c : Chip)
  | dma (n : Nat)
  | widthq (m : Mode)
  | grayq (g : Bool)
  | render
  | index (s : IndexSource) (x : Nat) (i : Index)
  | resolve (g : Bool) (i : Index) (c : Color)
  | extra (a : Int)
  | powerc (k : PowerTarget)
  | frameDone
  | diag (y : Nat)
  deriving DecidableEq, Repr

/-- A record code (10_state.md R26): unset or unrecognized, or the mode a row was composed at. -/
inductive RecCode where
  | unrec
  | mode (m : Mode)
  deriving DecidableEq, Repr

/-- The kinds of fault record (10_state.md R33). -/
inductive FaultKind where
  | fatal
  | illegal
  | range
  deriving DecidableEq, Repr

/-- The fatal causes (60_exceptions.md R210): codes 1 to 5 in this order. -/
inductive FatalCause where
  | threshold
  | band
  | vcount
  | hentry
  | hbudget
  deriving DecidableEq, Repr

/-- A fault record `(kind, code, info)` (10_state.md R33, 60_exceptions.md R210). -/
structure FaultRecord where
  kind : FaultKind
  code : BitVec 8
  info : Int
  deriving DecidableEq, Repr

/-- The per-frame resolution usage flags (10_state.md R25). -/
structure Usage where
  w1 : Bool
  w2 : Bool
  w3 : Bool
  deriving DecidableEq, Repr

/-- The viewport rectangle (10_state.md R28). -/
structure Viewport where
  x : BitVec 16
  y : BitVec 16
  w : BitVec 16
  h : BitVec 16
  deriving DecidableEq, Repr

/-- The fields of STATUS that the engine stores (10_state.md R29). `DUAL` and `U1` to `U3` are views of `cfg.dual` and
of the usage flags, put beside these by `State.statusWord`. DESIGN CHOICE (safe), notes/assumptions/7.md. -/
structure Status where
  fr : Bool
  fatal : Bool
  ill : Bool
  range : Bool
  cause : BitVec 8
  diag : BitVec 16
  deriving DecidableEq, Repr

/-- The engine's state (10_state.md R22 to R36) and the model's own fields. -/
structure State where
  /-- The configuration, fixed at load (00_scope.md R7, 10_state.md R36). DESIGN CHOICE, notes/assumptions/1.md. -/
  cfg : Cfg
  /-- Cumulative cycle count (R22). -/
  clock : BitVec 64
  /-- Cycles elapsed in the current scanline (R23). -/
  hcounter : BitVec 16
  /-- Current scanline index (R23). -/
  vcounter : BitVec 16
  /-- The latched wrap threshold, 0 when not latched (R24). -/
  frameLines : BitVec 16
  /-- Per-frame resolution usage (R25). -/
  usage : Usage
  /-- Per-scanline resolution record (R26): the rows that hold a mode; an unlisted row holds UNREC. -/
  record : Memory Mode
  /-- Canonical frame buffer (R27): the cells written since load, by `fbKey`; an unlisted cell holds its load draw. -/
  fb : Memory Color
  /-- Viewport (R28). -/
  vp : Viewport
  /-- Status (R29). -/
  status : Status
  /-- Response register (R30). -/
  resp : Word
  /-- Event history (R32), oldest first. -/
  hist : List Event
  /-- Fault log (R33), oldest first. -/
  faults : List FaultRecord
  /-- MODEL's own: the command words the host has still to issue (R21, 70_reset_and_hazards.md R249).
  DESIGN CHOICE, notes/assumptions/5.md. -/
  cmds : List Word
  /-- MODEL's own: the oracle's answers still to be given, in the order of the draws (R249).
  DESIGN CHOICE, notes/assumptions/3.md. -/
  tape : List Int
  /-- MODEL's own: how many draws were made after the tape ran out; the argument of `Config.freeAnswer`.
  DESIGN CHOICE, notes/assumptions/3.md. -/
  draws : Nat
  deriving DecidableEq, Repr

/-- Faults that stop the machine: none. Every fault of the spec is recorded in `State.faults` and the machine goes on
(60_exceptions.md R211, R213 to R215), so nothing raises one. Safe. DEDUCED, notes/assumptions/12.md. -/
inductive Fault where
  deriving DecidableEq, Repr

/-- Refusals: what the model has no run for. -/
inductive Refusal where
  /-- Raised by an arm of `exec` whose instruction has no meaning yet: none in this model. Safe. -/
  | notModelled (mnemonic : String)
  /-- Raised by `step` when the configuration fails a check of 00_scope.md R8, by the check's name: the spec itself
  refuses such a configuration and has no run for it. Safe. DESIGN CHOICE, notes/assumptions/10.md. -/
  | badConfig (check : CfgCheck)
  deriving DecidableEq, Repr

/-- The state right after load with configuration c (70_reset_and_hazards.md R240): Timing State, usage, record,
viewport, status and response zero; no cell written yet, so that each holds its load draw; logs empty. The model's own
fields are empty (DESIGN CHOICE, notes/assumptions/3.md and 5.md). -/
def State.initial (c : Cfg) : State where
  cfg := c
  clock := 0
  hcounter := 0
  vcounter := 0
  frameLines := 0
  usage := ⟨false, false, false⟩
  record := []
  fb := []
  vp := ⟨0, 0, 0, 0⟩
  status := ⟨false, false, false, false, 0, 0⟩
  resp := 0
  hist := []
  faults := []
  cmds := []
  tape := []
  draws := 0

/-- The machine right after reset: the load state (70_reset_and_hazards.md R240) of one named configuration,
`Config.atReset`. -/
def State.reset : State := State.initial Config.atReset

end Sys2Proof.Machine
end

