-- ==== Sys2Proof/Machine/Ops.lean ====
section
/-! DEFINITION. The named operations over the state: one update per field, the sparse arrays behind the frame buffer
and the record (20_memory.md R51, R52), the oracle's draws (00_scope.md R12), the history and fault log (10_state.md
R32, R33), raising a fault (60_exceptions.md R211, R214, R215), load (70_reset_and_hazards.md R240), taking the next
command (43_host_commands.md R170), and the flow of a command that a fault may stop (00_scope.md R12 `stop`). -/

namespace Sys2Proof.Machine

/-! Updates of one field. -/

/-- `st.clock <- v`. -/
def State.setClock (s : State) (v : BitVec 64) : State := { s with clock := v }
/-- `st.hcounter <- v`. -/
def State.setHcounter (s : State) (v : BitVec 16) : State := { s with hcounter := v }
/-- `st.vcounter <- v`. -/
def State.setVcounter (s : State) (v : BitVec 16) : State := { s with vcounter := v }
/-- `st.frameLines <- v`. -/
def State.setFrameLines (s : State) (v : BitVec 16) : State := { s with frameLines := v }
/-- `st.usage <- v`. -/
def State.setUsage (s : State) (v : Usage) : State := { s with usage := v }
/-- Replaces the whole per-scanline record. -/
def State.setRecord (s : State) (v : Memory Mode) : State := { s with record := v }
/-- Replaces the listed cells of the frame buffer. -/
def State.setFb (s : State) (v : Memory Color) : State := { s with fb := v }
/-- `st.vp <- v`. -/
def State.setVp (s : State) (v : Viewport) : State := { s with vp := v }
/-- Replaces the stored fields of `st.status`. -/
def State.setStatus (s : State) (v : Status) : State := { s with status := v }
/-- `st.resp <- v`. -/
def State.setResp (s : State) (v : Word) : State := { s with resp := v }
/-- `emit e` (00_scope.md R12): appends to the history (10_state.md R32). -/
def State.emit (s : State) (e : Event) : State := { s with hist := s.hist ++ [e] }
/-- Appends to the fault log (10_state.md R33). -/
def State.logFault (s : State) (r : FaultRecord) : State := { s with faults := s.faults ++ [r] }
/-- Replaces the commands the host has still to issue. -/
def State.setCmds (s : State) (v : List Word) : State := { s with cmds := v }
/-- Replaces the answers the oracle has still to give. -/
def State.setTape (s : State) (v : List Int) : State := { s with tape := v }
/-- Replaces the count of draws made after the tape ran out. -/
def State.setDraws (s : State) (v : Nat) : State := { s with draws := v }

/-! Sparse arrays. -/

/-- The canonical form: indexes strictly rising. -/
abbrev Memory.wf {α : Type} (m : Memory α) : Prop :=
  (m.map Prod.fst).Pairwise (· < ·)

/-- The element listed at index k. -/
def Memory.lookup {α : Type} : Memory α → Nat → Option α
  | [], _ => none
  | (a, v) :: rest, k => if k = a then some v else Memory.lookup rest k

/-- Lists v at index k, in its place, over what was listed there. -/
def Memory.insert {α : Type} : Memory α → Nat → α → Memory α
  | [], k, v => [(k, v)]
  | (a, u) :: rest, k, v =>
    if k < a then (k, v) :: (a, u) :: rest
    else if k = a then (k, v) :: rest
    else (a, u) :: Memory.insert rest k v

/-- Lists nothing at index k. -/
def Memory.erase {α : Type} (m : Memory α) (k : Nat) : Memory α :=
  m.filter (fun e => e.1 != k)

/-- The index of the cell at row y, column x. Columns are below 65536 (`CFG_FIT`, 00_scope.md R8), so no two cells
share an index. DESIGN CHOICE (safe), notes/assumptions/8.md. -/
def fbKey (y x : Nat) : Nat :=
  y * 65536 + x

/-- A raw answer as a color: below `2 ^ COLOR_BITS` (44_collaborator_interface.md R199). -/
def cutColor (c : Cfg) (n : Int) : Color :=
  BitVec.ofNat 32 (n % ((2 ^ c.colorBits : Nat) : Int)).toNat

/-- A raw answer as a palette index: below `2 ^ INDEX_BITS` (44_collaborator_interface.md R198). -/
def cutIndex (c : Cfg) (n : Int) : Index :=
  BitVec.ofNat 32 (n % ((2 ^ c.indexBits : Nat) : Int)).toNat

/-- `MemRead(FB, y, x)` (20_memory.md R51). A cell that nothing has written since load holds its load draw
(10_state.md R27). -/
def State.fbRead (s : State) (y x : Nat) : Color :=
  match Memory.lookup s.fb (fbKey y x) with
  | some c => c
  | none => cutColor s.cfg (Config.loadCell y x)

/-- `MemWrite(FB, y, x, c)` (20_memory.md R51). -/
def State.fbWrite (s : State) (y x : Nat) (c : Color) : State :=
  s.setFb (Memory.insert s.fb (fbKey y x) c)

/-- `MemRead(REC, y)` (20_memory.md R52). -/
def State.recRead (s : State) (y : Nat) : RecCode :=
  match Memory.lookup s.record y with
  | some m => .mode m
  | none => .unrec

/-- `MemWrite(REC, y, r)` (20_memory.md R52). Writing UNREC unlists the row. -/
def State.recWrite (s : State) (y : Nat) : RecCode → State
  | .mode m => s.setRecord (Memory.insert s.record y m)
  | .unrec => s.setRecord (Memory.erase s.record y)

/-- `for y in 0 .. BUF_H-1: MemWrite(REC, y, UNREC)` (40_tick.md R102, 43_host_commands.md R171): no row is listed. -/
def State.clearRecord (s : State) : State :=
  s.setRecord []

/-! Draws. -/

/-- `draw` (00_scope.md R12): the oracle's next answer as a raw number, from the tape, or a free value when the tape
has run out. DESIGN CHOICE (safe), notes/assumptions/3.md. -/
def State.draw (s : State) : Int × State :=
  match s.tape with
  | a :: rest => (a, s.setTape rest)
  | [] => (Config.freeAnswer s.draws, s.setDraws (s.draws + 1))

/-- A raw answer as a mode: every mode is some answer's (44_collaborator_interface.md R195). -/
def modeOf (n : Int) : Mode :=
  if n % 3 = 0 then .w1 else if n % 3 = 1 then .w2 else .w3

/-- A raw answer as a grayscale sample (44_collaborator_interface.md R196). -/
def grayOf (n : Int) : Bool :=
  decide (n % 2 = 1)

/-- A raw answer as a 32-bit word (43_host_commands.md R173 `draw Word32`). -/
def wordOf (n : Int) : Word :=
  BitVec.ofInt 32 n

/-! Faults. -/

/-- The cause code of a fatal fault (60_exceptions.md R210). -/
def FatalCause.code : FatalCause → BitVec 8
  | .threshold => 1
  | .band => 2
  | .vcount => 3
  | .hentry => 4
  | .hbudget => 5

/-- `raise Fatal(code)` (60_exceptions.md R211): FATAL is set, the first cause since POWER is kept, a record is
logged. That the command stops is the caller's `Flow.stop`. -/
def State.raiseFatal (s : State) (k : FatalCause) (info : Int) : State :=
  (s.setStatus { s.status with
    fatal := true
    cause := if s.status.cause = 0 then k.code else s.status.cause }).logFault ⟨.fatal, k.code, info⟩

/-- `raise Illegal(word)` (60_exceptions.md R214). -/
def State.raiseIllegal (s : State) (word : Word) : State :=
  (s.setStatus { s.status with ill := true }).logFault ⟨.illegal, 0, word.toNat⟩

/-- `raise Range(word)` (60_exceptions.md R215), with the response it leaves. -/
def State.raiseRange (s : State) (word : Word) : State :=
  ((s.setStatus { s.status with range := true }).logFault ⟨.range, 0, word.toNat⟩).setResp 0

/-! A command that a fault may stop. -/

/-- Where a command stands between two of its steps: going on, or stopped (00_scope.md R12 `stop`). -/
inductive Flow where
  | go (s : State)
  | stop (s : State)
  deriving DecidableEq, Repr

/-- The next step runs only if the command goes on. -/
def Flow.andThen : Flow → (State → Flow) → Flow
  | .go s, f => f s
  | .stop s, _ => .stop s

/-- The state a command leaves, stopped or not: "earlier writes remain" (00_scope.md R12). -/
def Flow.state : Flow → State
  | .go s => s
  | .stop s => s

/-! Load and the command port. -/

/-- Load (70_reset_and_hazards.md R240): a configuration that fails a check of 00_scope.md R8 is refused by the
check's name; any other gives the load state. -/
def State.load (c : Cfg) : Except CfgCheck State :=
  match c.failing with
  | some k => .error k
  | none => .ok (State.initial c)

/-- The next command word at the CMD port and the state in which it runs (43_host_commands.md R170); none when the
host has no more to issue (70_reset_and_hazards.md R249). -/
def State.fetch (s : State) : Option (Word × State) :=
  match s.cmds with
  | [] => none
  | w :: rest => some (w, s.setCmds rest)

end Sys2Proof.Machine
end

