-- ==== Sys2Proof/Machine/Flags.lean ====
section
/-! DEFINITION. The status word and the flags (10_state.md R25, R26, R29). -/

namespace Sys2Proof.Machine

/-- `usage[m]` (10_state.md R25). -/
def Usage.get (u : Usage) : Mode → Bool
  | .w1 => u.w1
  | .w2 => u.w2
  | .w3 => u.w3

/-- `usage[m] <- 1`; the other two are left as they are (41_compose.md R137). -/
def Usage.mark (u : Usage) : Mode → Usage
  | .w1 => { u with w1 := true }
  | .w2 => { u with w2 := true }
  | .w3 => { u with w3 := true }

/-- All three flags clear. -/
def Usage.none : Usage := ⟨false, false, false⟩

/-- How many flags are set (42_normalize.md R150 `n`). -/
def Usage.count (u : Usage) : Nat :=
  u.w1.toNat + u.w2.toNat + u.w3.toNat

/-- The mode whose flag is set, when exactly one is (42_normalize.md R150 `n = 1`). -/
def Usage.sole (u : Usage) : Option Mode :=
  if u.count = 1 then some (if u.w1 then .w1 else if u.w2 then .w2 else .w3) else Option.none

/-- The 2-bit record code (10_state.md R26). -/
def RecCode.bits : RecCode → BitVec 2
  | .unrec => 0
  | .mode .w1 => 1
  | .mode .w2 => 2
  | .mode .w3 => 3

/-- `st.status` as RDREG 0 reads it (10_state.md R29): DIAG 31:16, CAUSE 15:8, U3, U2, U1, DUAL, RANGE, ILL, FATAL,
FR. -/
def State.statusWord (s : State) : Word :=
  s.status.diag ++ s.status.cause ++ BitVec.ofBool s.usage.w3 ++ BitVec.ofBool s.usage.w2 ++
    BitVec.ofBool s.usage.w1 ++ BitVec.ofBool s.cfg.dual ++ BitVec.ofBool s.status.range ++
    BitVec.ofBool s.status.ill ++ BitVec.ofBool s.status.fatal ++ BitVec.ofBool s.status.fr

/-- `st.status.FR <- b`. -/
def State.setFr (s : State) (b : Bool) : State :=
  s.setStatus { s.status with fr := b }

/-- `st.status.DIAG <- v`. -/
def State.setDiag (s : State) (v : BitVec 16) : State :=
  s.setStatus { s.status with diag := v }

/-- `st.status.DIAG <- min(st.status.DIAG + 1, 0xFFFF)` (42_normalize.md R153, R156). -/
def State.countDiag (s : State) : State :=
  s.setDiag (BitVec.ofNat 16 (min (s.status.diag.toNat + 1) 0xFFFF))

end Sys2Proof.Machine
end

