-- ==== Sys2Proof/Machine/Operands.lean ====
section
/-! DEFINITION. What the operands of the read commands name: a cell of the frame buffer and a row of the record
(30_encoding.md R72, 60_exceptions.md R215), a register of the register map (30_encoding.md R77), and the read window
(43_host_commands.md R176). -/

namespace Sys2Proof.Machine

/-- The coordinate names a cell of the frame buffer (60_exceptions.md R215). -/
abbrev HasCell (c : Cfg) (x y : BitVec 14) : Prop :=
  x.toNat < c.bufW ∧ y.toNat < c.bufH

/-- The index names an entry of the record (60_exceptions.md R215). -/
abbrev HasRow (c : Cfg) (y : BitVec 14) : Prop :=
  y.toNat < c.bufH

/-- The register is one of VP_X to VP_H, registers 1 to 4 (43_host_commands.md R173). -/
def isViewportReg : Reg → Bool
  | .vpX => true
  | .vpY => true
  | .vpW => true
  | .vpH => true
  | .status => false
  | .hcounter => false
  | .vcounter => false
  | .clockLo => false
  | .clockHi => false
  | .frameLines => false

/-- `reg[n]` (30_encoding.md R77, R78): the value at this moment. -/
def State.readReg (s : State) : Reg → Word
  | .status => s.statusWord
  | .vpX => s.vp.x.setWidth 32
  | .vpY => s.vp.y.setWidth 32
  | .vpW => s.vp.w.setWidth 32
  | .vpH => s.vp.h.setWidth 32
  | .hcounter => s.hcounter.setWidth 32
  | .vcounter => s.vcounter.setWidth 32
  | .clockLo => s.clock.extractLsb' 0 32
  | .clockHi => s.clock.extractLsb' 32 32
  | .frameLines => s.frameLines.setWidth 32

/-- The read window is open (43_host_commands.md R176). -/
def State.windowOpen (s : State) : Bool :=
  s.status.fr

end Sys2Proof.Machine
end

