-- ==== Sys2Proof/Machine/Collaborators.lean ====
section
/-! DEFINITION. The engine's outbound calls and queries (44_collaborator_interface.md R190 to R201). Each appends its
event to the history; each query's answer is a draw of its type. -/

namespace Sys2Proof.Machine

/-- A hook of every active chip: chip A's first, chip B's exactly in dual-chip mode (40_tick.md R103). -/
def State.callChips (s : State) (hook : Chip → Event) : State :=
  if s.cfg.dual then (s.emit (hook .a)).emit (hook .b) else s.emit (hook .a)

/-- `Call(DMA, advance, (n))` (R194). -/
def State.callDma (s : State) (n : Nat) : State :=
  s.emit (.dma n)

/-- `Query(VCE, currentWidth, ())` (R195). -/
def State.queryWidth (s : State) : Mode × State :=
  let (n, s) := s.draw
  (modeOf n, s.emit (.widthq (modeOf n)))

/-- `Query(GRAYPIN, sample, ())` (R196). -/
def State.queryGray (s : State) : Bool × State :=
  let (n, s) := s.draw
  (grayOf n, s.emit (.grayq (grayOf n)))

/-- `Call(COMB, render, ())` (R197), made in dual-chip mode only. -/
def State.callRender (s : State) : State :=
  if s.cfg.dual then s.emit .render else s

/-- Where the Composer reads palette indexes: the combiner in dual-chip mode, else chip A (R198). -/
def indexSource (c : Cfg) : IndexSource :=
  if c.dual then .comb else .a

/-- `Query(s, outputIndexAt, (x))` (R198). -/
def State.queryIndex (s : State) (x : Nat) : Index × State :=
  let (n, s) := s.draw
  (cutIndex s.cfg n, s.emit (.index (indexSource s.cfg) x (cutIndex s.cfg n)))

/-- `Query(VCE, resolve, (g, i))` (R199). -/
def State.queryResolve (s : State) (g : Bool) (i : Index) : Color × State :=
  let (n, s) := s.draw
  (cutColor s.cfg n, s.emit (.resolve g i (cutColor s.cfg n)))

/-- `Query(XL, extraLineAdjustment, ())` (R200): any integer. -/
def State.queryExtra (s : State) : Int × State :=
  let (n, s) := s.draw
  (n, s.emit (.extra n))

/-- The power calls of POWER in their order (R201): A, then B and the combiner in dual-chip mode, then the color
resolver, then the DMA stepper. -/
def State.callPower (s : State) : State :=
  let s := s.emit (.powerc .a)
  let s := if s.cfg.dual then (s.emit (.powerc .b)).emit (.powerc .comb) else s
  (s.emit (.powerc .vce)).emit (.powerc .dma)

end Sys2Proof.Machine
end

