-- ==== Sys2Proof/Machine/IllegalCommand.lean ====
section
/-! DEFINITION. An illegal command word (43_host_commands.md R170, 60_exceptions.md R214). -/

namespace Sys2Proof.Machine

/-- `ILLEGAL(word)`: raises `Illegal(word)`; the engine continues (60_exceptions.md R214). -/
def execIllegal (word : Word) (s : State) : Host.Outcome State Fault Refusal :=
  .next (s.raiseIllegal word)

end Sys2Proof.Machine
end

