-- ==== Sys2Proof/Machine/Power.lean ====
section
/-! DEFINITION. POWER (43_host_commands.md R171). -/

namespace Sys2Proof.Machine

/-- The engine's own reset (43_host_commands.md R171): Timing State, usage flags, record, viewport, status and
response; the frame buffer, the configuration and the two logs stay. -/
def powerReset (s : State) : State :=
  let s := (((s.setClock 0).setHcounter 0).setVcounter 0).setFrameLines 0
  let s := (s.setUsage Usage.none).clearRecord
  ((s.setVp ⟨0, 0, 0, 0⟩).setStatus ⟨false, false, false, false, 0, 0⟩).setResp 0

/-- `POWER` (43_host_commands.md R171): the engine's own reset, then the power calls (44_collaborator_interface.md
R201). -/
def execPower (s : State) : Host.Outcome State Fault Refusal :=
  .next (powerReset s).callPower

end Sys2Proof.Machine
end

