-- ==== Sys2Proof/Machine/Reads.lean ====
section
/-! DEFINITION. The read commands RDPIX, RDREG, RDREC (43_host_commands.md R172 to R176). -/

namespace Sys2Proof.Machine

/-- The response is a draw (43_host_commands.md R176), cut to its type. -/
def State.respondDraw (s : State) (cut : Int → Word) : State :=
  let (n, s) := s.draw
  s.setResp (cut n)

/-- `RDPIX x, y` (43_host_commands.md R172). The word of a Range fault is the command's own (60_exceptions.md R215). -/
def execRdpix (x y : BitVec 14) (s : State) : Host.Outcome State Fault Refusal :=
  if HasCell s.cfg x y then
    if s.windowOpen then .next (s.setResp (s.fbRead y.toNat x.toNat))
    else .next (s.respondDraw (cutColor s.cfg))
  else .next (s.raiseRange (encode (.rdpix x y)))

/-- `RDREG r` (43_host_commands.md R173). -/
def execRdreg (r : Reg) (s : State) : Host.Outcome State Fault Refusal :=
  if isViewportReg r && !s.windowOpen then .next (s.respondDraw wordOf)
  else .next (s.setResp (s.readReg r))

/-- `RDREC y` (43_host_commands.md R174). -/
def execRdrec (y : BitVec 14) (s : State) : Host.Outcome State Fault Refusal :=
  if HasRow s.cfg y then .next (s.setResp ((s.recRead y.toNat).bits.setWidth 32))
  else .next (s.raiseRange (encode (.rdrec y)))

end Sys2Proof.Machine
end

