-- ==== Sys2Proof/Machine/Compose.lean ====
section
/-! DEFINITION. The Scanline Composer (41_compose.md R130 to R137). -/

namespace Sys2Proof.Machine

/-- One column (41_compose.md R134, R135): index query, resolve, pixel write, in that order. -/
def composePixel (y : Nat) (g : Bool) (x : Nat) (s : State) : State :=
  let (i, s) := s.queryIndex x
  let (c, s) := s.queryResolve g i
  s.fbWrite y x c

/-- n columns from column x on, ascending (41_compose.md R134). -/
def composeColumns (y : Nat) (g : Bool) : (x n : Nat) → State → State
  | _, 0, s => s
  | x, n + 1, s => composeColumns y g (x + 1) n (composePixel y g x s)

/-- Row y, in the band (41_compose.md R132 to R137): mode, grayscale sample, combiner pass, pixels, record, flag. -/
def composeRow (y : Nat) (s : State) : State :=
  let (m, s) := s.queryWidth
  let (g, s) := s.queryGray
  let s := composeColumns y g 0 (s.cfg.width m) s.callRender
  let s := s.recWrite y (.mode m)
  s.setUsage (s.usage.mark m)

/-- `Compose` (41_compose.md R130), with its entry check (R131). -/
def compose (s : State) : Flow :=
  if s.cfg.InBand s.vcounter.toNat then .go (composeRow s.vcounter.toNat s)
  else .stop (s.raiseFatal .band s.vcounter.toNat)

end Sys2Proof.Machine
end

