-- ==== Sys2Proof/Machine/Normalize.lean ====
section
/-! DEFINITION. The Frame Normalizer (42_normalize.md R150 to R156). -/

namespace Sys2Proof.Machine

/-- The stretch writes of columns n-1 down to 0 (42_normalize.md R154). -/
def stretchDown (y k : Nat) : (n : Nat) → State → State
  | 0, s => s
  | j + 1, s => stretchDown y k j (s.fbWrite y j (s.fbRead y (j / k)))

/-- `Stretch(y, w, k)` (42_normalize.md R154). -/
def stretch (y w k : Nat) (s : State) : State :=
  stretchDown y k (w * k) s

/-- `Skip(y)` (42_normalize.md R153). -/
def skipRow (y : Nat) (s : State) : State :=
  s.countDiag.emit (.diag y)

/-- One band row of a mixed frame, by its own record alone (42_normalize.md R152). -/
def normalizeRow (y : Nat) (s : State) : State :=
  match s.recRead y with
  | .unrec => skipRow y s
  | .mode m => stretch y (s.cfg.width m) (s.cfg.factor m) s

/-- n band rows from row y on, ascending (42_normalize.md R152). -/
def normalizeRows : (y n : Nat) → State → State
  | _, 0, s => s
  | y, n + 1, s => normalizeRows (y + 1) n (normalizeRow y s)

/-- The viewport of a frame of width w: the whole band (42_normalize.md R151, R155). -/
def bandViewport (c : Cfg) (w : Nat) : Viewport :=
  ⟨0, BitVec.ofNat 16 c.activeStart, BitVec.ofNat 16 w, BitVec.ofNat 16 c.activeHeight⟩

/-- `Normalize` (42_normalize.md R150): a uniform frame is cropped (R151), any other is stretched row by row
(R152 to R155). -/
def normalizeFrame (s : State) : State :=
  let s := s.setDiag 0
  match s.usage.sole with
  | some m => s.setVp (bandViewport s.cfg (s.cfg.width m))
  | none =>
    let s := normalizeRows s.cfg.activeStart s.cfg.activeHeight s
    s.setVp (bandViewport s.cfg s.cfg.canonicalWidth)

end Sys2Proof.Machine
end

