-- ==== Sys2Proof/Machine/Tick.lean ====
section
/-! DEFINITION. TICK and the scanline scheduler (40_tick.md R100 to R112). -/

namespace Sys2Proof.Machine

/-- `INV2` (10_state.md R34), as step 0 checks it (40_tick.md R100). -/
abbrev CountersLegal (s : State) : Prop :=
  (s.frameLines.toNat = 0 ∧ s.vcounter.toNat < s.cfg.nominalLines) ∨
    (s.cfg.nominalLines < s.frameLines.toNat ∧ s.frameLines.toNat ≤ s.cfg.bufH ∧
      s.cfg.nominalLines ≤ s.vcounter.toNat ∧ s.vcounter.toNat < s.frameLines.toNat)

/-- Step 0, entry (40_tick.md R100): a halted engine ignores the TICK; the read window closes; the counters are
checked. -/
def tickStep0 (s : State) : Flow :=
  if s.status.fatal then .stop s
  else
    let s := s.setFr false
    if s.hcounter ≠ 0 then .stop (s.raiseFatal .hentry s.hcounter.toNat)
    else if ¬ CountersLegal s then .stop (s.raiseFatal .vcount s.vcounter.toNat)
    else .go s

/-- Step 1, horizontal sync (R101). -/
def tickStep1 (s : State) : State :=
  s.callChips .hsync

/-- Step 2, start of frame (R102). -/
def tickStep2 (s : State) : State :=
  if s.vcounter = 0 then ((s.callChips .vsync).setUsage Usage.none).clearRecord else s

/-- The clock and the line counter advance by n cycles, which are forwarded to the DMA stepper in one call
(R104, R107). -/
def advanceCycles (n : Nat) (s : State) : State :=
  ((s.setClock (s.clock + BitVec.ofNat 64 n)).setHcounter (s.hcounter + BitVec.ofNat 16 n)).callDma n

/-- Step 3, pre-active interval (R104). -/
def tickStep3 (s : State) : State :=
  advanceCycles s.cfg.preCycles s

/-- Step 4, horizontal clock (R105). -/
def tickStep4 (s : State) : State :=
  s.callChips .hclock

/-- Step 5, composition of a band row (R106). -/
def tickStep5 (s : State) : Flow :=
  if s.cfg.InBand s.vcounter.toNat then compose s else .go s

/-- Step 6, rest of the line (R107). -/
def tickStep6 (s : State) : State :=
  advanceCycles s.cfg.postCycles s

/-- Step 7, vertical clock (R108). -/
def tickStep7 (s : State) : State :=
  s.callChips .vclock

/-- Step 8a, end of line (R109). -/
def tickStep8a (s : State) : Flow :=
  if s.hcounter.toNat ≠ s.cfg.lineCycles then .stop (s.raiseFatal .hbudget s.hcounter.toNat)
  else
    let s := s.setHcounter 0
    let v := s.vcounter.toNat + 1
    if (s.frameLines.toNat = 0 ∧ v > s.cfg.nominalLines) ∨ (s.frameLines.toNat ≠ 0 ∧ v > s.frameLines.toNat) then
      .stop (s.raiseFatal .vcount s.vcounter.toNat)
    else .go (s.setVcounter (BitVec.ofNat 16 v))

/-- Step 8c, frame complete (R111). -/
def tickStep8c (s : State) : State :=
  (s.setFr true).emit .frameDone

/-- The latch of step 8b (R110): the threshold is read the first time in a frame that `vcounter` reaches
`NOMINAL_LINES`; an adjustment below 0 or a threshold beyond the buffer is fatal. -/
def tickLatch (s : State) : Flow :=
  if s.frameLines = 0 ∧ s.vcounter.toNat = s.cfg.nominalLines then
    let (a, s) := s.queryExtra
    let t : Int := s.cfg.nominalLines + a
    if a < 0 ∨ t > s.cfg.bufH then .stop (s.raiseFatal .threshold a)
    else .go (s.setFrameLines (BitVec.ofNat 16 t.toNat))
  else .go s

/-- The wrap of step 8b (R110): at the threshold the frame ends, is normalized and is signalled. -/
def tickWrap (s : State) : State :=
  if s.frameLines ≠ 0 ∧ s.vcounter = s.frameLines then
    tickStep8c (normalizeFrame ((s.setVcounter 0).setFrameLines 0))
  else s

/-- Step 8b (R110). -/
def tickStep8b (s : State) : Flow :=
  (tickLatch s).andThen fun s => .go (tickWrap s)

/-- A TICK up to and with step 8a. -/
def tickLine (s : State) : Flow :=
  (tickStep0 s).andThen fun s =>
    (tickStep5 (tickStep4 (tickStep3 (tickStep2 (tickStep1 s))))).andThen fun s =>
      tickStep8a (tickStep7 (tickStep6 s))

/-- `TICK` (R112): the steps in their order; any `stop` ends it. -/
def tickSteps (s : State) : Flow :=
  (tickLine s).andThen tickStep8b

/-- `TICK` (R112). -/
def execTick (s : State) : Host.Outcome State Fault Refusal :=
  .next (tickSteps s).state

end Sys2Proof.Machine
end

