-- ==== Sys2Proof/Machine/Dispatch.lean ====
section
/-! DEFINITION. The dispatch: one arm per command (30_encoding.md R73, R75). -/

namespace Sys2Proof.Machine

def exec (i : Instr) (s : State) : Host.Outcome State Fault Refusal :=
  match i with
  | .tick => Sys2Proof.Machine.execTick s
  | .power => Sys2Proof.Machine.execPower s
  | .rdpix x y => Sys2Proof.Machine.execRdpix x y s
  | .rdreg r => Sys2Proof.Machine.execRdreg r s
  | .rdrec y => Sys2Proof.Machine.execRdrec y s
  | .illegal word => Sys2Proof.Machine.execIllegal word s

end Sys2Proof.Machine
end

