-- ==== Sys2Proof/Machine/Step.lean ====
section
/-! DEFINITION. One step of the machine: one host command (00_scope.md R13, 43_host_commands.md R170). -/

namespace Sys2Proof.Machine

/-- One step. A configuration that fails a check of 00_scope.md R8 has no run, by the check's name. With no command
pending the engine holds its state (60_exceptions.md R227). Otherwise the next word is taken, decoded and executed. -/
def step (s : State) : Host.Outcome State Fault Refusal :=
  match s.cfg.failing with
  | some k => .refused (.badConfig k)
  | none =>
    match s.fetch with
    | none => .next s
    | some (w, t) => exec (decode w) t

/-- The state with the word of a row of spec/opcode_table.json put before the commands the host has still to issue, so
that the next step runs it. -/
def State.withFetchWord (s : State) (nbits w : Nat) : State :=
  s.setCmds (tableWord nbits w :: s.cmds)

end Sys2Proof.Machine
end

