-- ==== Sys2Proof/Safety.lean ====
section
/-! DEFINITION. What counts as a safe state and a good run of the engine, in the terms claims use: the invariants of
10_state.md R34 and what they rest on, the conditions under which a TICK completes, and the shapes of the event
history (40_tick.md R115, 41_compose.md R138). -/

namespace Sys2Proof.Machine

/-! The invariants between commands (10_state.md R34). -/

/-- INV1 (R34). -/
abbrev Inv1 (s : State) : Prop :=
  s.hcounter.toNat = 0

/-- INV2 (R34): the threshold is not latched and the line is below the nominal count, or it is latched above it. -/
abbrev Inv2 (s : State) : Prop :=
  (s.frameLines.toNat = 0 ∧ s.vcounter.toNat < s.cfg.nominalLines) ∨
    (s.cfg.nominalLines < s.frameLines.toNat ∧ s.frameLines.toNat ≤ s.cfg.bufH ∧
      s.cfg.nominalLines ≤ s.vcounter.toNat ∧ s.vcounter.toNat < s.frameLines.toNat)

/-- INV3 (R34): a row outside the active band holds UNREC. -/
abbrev Inv3 (s : State) : Prop :=
  ∀ y, ¬ s.cfg.InBand y → s.recRead y = .unrec

/-- INV4 (R34): a usage flag is set exactly when some band row holds its mode. -/
abbrev Inv4 (s : State) : Prop :=
  ∀ m, s.usage.get m = true ↔ ∃ y, s.cfg.InBand y ∧ s.recRead y = .mode m

/-- INV5 (R34): the read window is open only with the counters at the start of a frame. -/
abbrev Inv5 (s : State) : Prop :=
  s.status.fr = true → s.vcounter.toNat = 0 ∧ s.frameLines.toNat = 0

/-- Inside a frame, a row that the frame has not reached holds UNREC (42_normalize.md R153: a band row is UNREC at a
wrap exactly when it was not reached; DEDUCED from 40_tick.md R102 and R106, notes/assumptions/18.md). It makes INV4
inductive. -/
abbrev RowsAheadUnrec (s : State) : Prop :=
  s.vcounter.toNat ≠ 0 → ∀ y, s.vcounter.toNat ≤ y → s.recRead y = .unrec

/-- Inside a frame, a band row that the frame has passed holds the mode it was composed at (42_normalize.md R153;
DEDUCED from 40_tick.md R106 and R109, notes/assumptions/18.md). -/
abbrev RowsBehindRecorded (s : State) : Prop :=
  ∀ y, s.cfg.InBand y → y < s.vcounter.toNat → s.recRead y ≠ .unrec

/-- The invariants that hold between commands while FATAL = 0 (R34). -/
structure Running (s : State) : Prop where
  inv1 : Inv1 s
  inv2 : Inv2 s
  inv3 : Inv3 s
  inv4 : Inv4 s
  inv5 : Inv5 s
  ahead : RowsAheadUnrec s
  behind : RowsBehindRecorded s

/-- Every listed cell of the frame buffer lies inside the buffer and holds a color of COLOR_BITS bits
(20_memory.md R51). -/
abbrev CellsInRange (s : State) : Prop :=
  ∀ e ∈ s.fb, e.1 / 65536 < s.cfg.bufH ∧ e.1 % 65536 < s.cfg.bufW ∧ e.2.toNat < 2 ^ s.cfg.colorBits

/-- CAUSE is 0 exactly while there was no fatal fault, and otherwise one of the five codes (10_state.md R29,
60_exceptions.md R210). -/
abbrev CauseLegal (s : State) : Prop :=
  (s.status.cause = 0 ↔ s.status.fatal = false) ∧ s.status.cause.toNat ≤ 5

/-- The invariant of every step: a well-formed configuration, canonical arrays inside their bounds, legal fault
status, a viewport that starts at column 0 (10_state.md R28), and the invariants of R34 while FATAL = 0. -/
structure EngineInv (s : State) : Prop where
  cfgOk : s.cfg.Ok
  fbWf : Memory.wf s.fb
  recordWf : Memory.wf s.record
  cells : CellsInRange s
  cause : CauseLegal s
  vpX : s.vp.x = 0
  running : s.status.fatal = false → Running s

/-! A good run (70_reset_and_hazards.md R249). -/

/-- No fault of any kind was recorded: the premise of every claim about a good run (10_state.md R33, R249). -/
abbrev NoFault (s : State) : Prop :=
  s.faults = []

/-- The state one TICK leaves. -/
def tickOnce (s : State) : State :=
  match exec .tick s with
  | .next t => t
  | .fault _ => s
  | .refused _ => s

/-- The state n TICKs leave. -/
def runTicks : Nat → State → State
  | 0, s => s
  | n + 1, s => tickOnce (runTicks n s)

/-! When a TICK completes (40_tick.md R112). -/

/-- The latch of the frame's threshold is due at the end of this line (40_tick.md R110). -/
abbrev LatchDue (s : State) : Prop :=
  s.frameLines.toNat = 0 ∧ s.vcounter.toNat + 1 = s.cfg.nominalLines

/-- The answer this TICK's extra-line query would get: the one that the oracle gives after the answers of the line's
composition (44_collaborator_interface.md R200). -/
def extraAnswer (s : State) : Int :=
  (tickLine s).state.queryExtra.1

/-- The extra-line answer, where this TICK asks for it, is one 40_tick.md R110 accepts. -/
abbrev ThresholdOk (s : State) : Prop :=
  LatchDue s → 0 ≤ extraAnswer s ∧ s.cfg.nominalLines + extraAnswer s ≤ s.cfg.bufH

/-- The counters are legal at entry (40_tick.md R100): no entry check of a TICK fails. -/
abbrev EntryOk (s : State) : Prop :=
  s.status.fatal = false ∧ s.hcounter.toNat = 0 ∧ Inv2 s

/-! Shapes of the event history. -/

/-- The events appended between two states, by length. -/
def newEvents (s t : State) : List Event :=
  t.hist.drop s.hist.length

/-- The events of a hook: chip A's, then chip B's in dual-chip mode (40_tick.md R103). -/
def chipEvents (c : Cfg) (hook : Chip → Event) : List Event :=
  if c.dual then [hook .a, hook .b] else [hook .a]

/-- The events of the columns of a composed line from column x on: index, then resolve (41_compose.md R138). -/
def pixelEvents (c : Cfg) (g : Bool) : (x : Nat) → List (Index × Color) → List Event
  | _, [] => []
  | x, (i, v) :: rest => .index (indexSource c) x i :: .resolve g i v :: pixelEvents c g (x + 1) rest

/-- The answers of a line's columns have their types: indexes below 2^INDEX_BITS, colors below 2^COLOR_BITS
(44_collaborator_interface.md R198, R199). -/
abbrev AnswersInRange (c : Cfg) (pixels : List (Index × Color)) : Prop :=
  ∀ p ∈ pixels, p.1.toNat < 2 ^ c.indexBits ∧ p.2.toNat < 2 ^ c.colorBits

/-- The events of one composed line (41_compose.md R138). -/
def composerEvents (c : Cfg) (m : Mode) (g : Bool) (pixels : List (Index × Color)) : List Event :=
  .widthq m :: .grayq g :: ((if c.dual then [.render] else []) ++ pixelEvents c g 0 pixels)

/-- The rows y, y+1, ..., y+n-1 that hold UNREC, ascending: the rows the Normalizer skips (42_normalize.md R153). -/
def unrecRows (s : State) : (y n : Nat) → List Nat
  | _, 0 => []
  | y, n + 1 => if s.recRead y = .unrec then y :: unrecRows s (y + 1) n else unrecRows s (y + 1) n

/-- What a mixed frame's stretch leaves in column x of band row y, from the cells and the record of s: a recorded row is
replicated by its own factor over the canonical width, an UNREC row stays (42_normalize.md R152 to R154). -/
def stretchedRead (s : State) (y x : Nat) : Color :=
  match s.recRead y with
  | .unrec => s.fbRead y x
  | .mode m => if x < s.cfg.canonicalWidth then s.fbRead y (x / s.cfg.factor m) else s.fbRead y x

/-- The event names chip B or the combiner (44_collaborator_interface.md R203). -/
def Event.namesDual : Event → Bool
  | .hsync c => c == .b
  | .vsync c => c == .b
  | .hclock c => c == .b
  | .vclock c => c == .b
  | .dma _ => false
  | .widthq _ => false
  | .grayq _ => false
  | .render => true
  | .index s _ _ => s == .comb
  | .resolve _ _ _ => false
  | .extra _ => false
  | .powerc k => k == .b || k == .comb
  | .frameDone => false
  | .diag _ => false

/-- The event is a cycle-forwarding call to the DMA stepper. -/
def Event.isDma : Event → Bool
  | .dma _ => true
  | _ => false

/-- The event is an extra-line query. -/
def Event.isExtra : Event → Bool
  | .extra _ => true
  | _ => false

/-- The command is a read (43_host_commands.md R175). -/
def isReadCommand : Instr → Bool
  | .tick => false
  | .power => false
  | .rdpix _ _ => true
  | .rdreg _ => true
  | .rdrec _ => true
  | .illegal _ => false

end Sys2Proof.Machine
end

