-- ==== Sys2Proof/Certificates/Slice0/Obligations.lean ====
section
/-! DEFINITION. The statements for the provers, from the numbered rules of spec/. Where a statement rests on a choice
of the model, its docstring names the log entry. -/

open Sys2Proof Sys2Proof.Machine

/-! ## Encoding (30_encoding.md) -/

/-- Decoding the encoding of any well-formed command gives the command back, from the word and from its four bytes
(R71, R73, R75; byte order R53). -/
def Obligations.DecodeEncodeRoundTrip : Prop :=
  ∀ i : Instr, i.wellFormed = true →
    decode (encode i) = i ∧ ∀ rest, decodeBytes (bytesOfWord (encode i) ++ rest) = .ok (i, rest)

/-- Every word decodes to a well-formed command whose encoding is that word: no bit of a word is dropped (R75). -/
def Obligations.EncodeDecodeRoundTrip : Prop :=
  ∀ w : Word, (decode w).wellFormed = true ∧ encode (decode w) = w

/-- The opcode map by match and mask: each command is selected by its row's words and by no other, RDREG needs a
register number of at most 9, and a word that no row selects is ILLEGAL (R73). -/
def Obligations.DecodeFollowsOpcodeMap : Prop :=
  ∀ w : Word,
    (decode w = .tick ↔ w &&& 0xFFFFFFFF#32 = 0x10000000#32) ∧
    (decode w = .power ↔ w &&& 0xFFFFFFFF#32 = 0x20000000#32) ∧
    ((∃ x y, decode w = .rdpix x y) ↔ w &&& 0xF0000000#32 = 0x30000000#32) ∧
    ((∃ r, decode w = .rdreg r) ↔ w &&& 0xFFFFFF00#32 = 0x40000000#32 ∧ (w.extractLsb' 0 8).toNat ≤ 9) ∧
    ((∃ y, decode w = .rdrec y) ↔ w &&& 0xFFFFC000#32 = 0x50000000#32) ∧
    ((w.extractLsb' 28 4 = 0#4 ∨ 6 ≤ (w.extractLsb' 28 4).toNat) → decode w = .illegal w) ∧
    ((∃ u, decode w = .illegal u) ↔
      ¬(w &&& 0xFFFFFFFF#32 = 0x10000000#32) ∧ ¬(w &&& 0xFFFFFFFF#32 = 0x20000000#32) ∧
      ¬(w &&& 0xF0000000#32 = 0x30000000#32) ∧
      ¬(w &&& 0xFFFFFF00#32 = 0x40000000#32 ∧ (w.extractLsb' 0 8).toNat ≤ 9) ∧
      ¬(w &&& 0xFFFFC000#32 = 0x50000000#32))

/-- A word whose OP selects a format but which has a reserved bit set is illegal, never the command its OP names
(R74). -/
def Obligations.ReservedBitSetIsIllegal : Prop :=
  ∀ w : Word,
    ((w.extractLsb' 28 4 = 1#4 ∨ w.extractLsb' 28 4 = 2#4) → w.extractLsb' 0 28 ≠ 0#28 → decode w = .illegal w) ∧
    (w.extractLsb' 28 4 = 4#4 → w.extractLsb' 8 20 ≠ 0#20 → decode w = .illegal w) ∧
    (w.extractLsb' 28 4 = 5#4 → w.extractLsb' 14 14 ≠ 0#14 → decode w = .illegal w)

/-- The operands of the decoded command are the fields of its format (R72). -/
def Obligations.OperandsAreTheFields : Prop :=
  ∀ w : Word,
    (∀ x y, decode w = .rdpix x y → x = w.extractLsb' 0 14 ∧ y = w.extractLsb' 14 14) ∧
    (∀ r, decode w = .rdreg r → r.number = w.extractLsb' 0 8) ∧
    (∀ y, decode w = .rdrec y → y = w.extractLsb' 0 14)

/-- The encoding examples of R80, in both directions. -/
def Obligations.EncodingExamples : Prop :=
  (∀ p ∈ [(Instr.tick, 0x10000000#32), (.power, 0x20000000#32), (.rdpix 0 0, 0x30000000#32),
      (.rdpix 3 1, 0x30004003#32), (.rdpix 5 2, 0x30008005#32), (.rdpix 7 3, 0x3000C007#32),
      (.rdpix 511 21, 0x300541FF#32), (.rdreg .status, 0x40000000#32), (.rdreg .vpW, 0x40000003#32),
      (.rdreg .frameLines, 0x40000009#32), (.rdrec 3, 0x50000003#32), (.rdrec 21, 0x50000015#32)],
    decode p.2 = p.1 ∧ encode p.1 = p.2) ∧
  ∀ w ∈ [0x10000001#32, 0x4000000A#32, 0x00000000#32], decode w = .illegal w

/-! ## The step (00_scope.md R13, 43_host_commands.md R170) -/

/-- A step runs the decoded command: with a word pending it is `exec` of the decoded word on the state less that word;
with none pending the engine holds its state (R227); a configuration that fails a check of R8 has no run. That the
words stand in the state and that the step without one answers the same state are the model's choices (log entries 5
and 10). -/
def Obligations.StepRunsDecodedCommand : Prop :=
  (∀ s w rest, s.cfg.Ok → s.cmds = w :: rest → step s = exec (decode w) (s.setCmds rest)) ∧
  (∀ s, s.cfg.Ok → s.cmds = [] → step s = .next s) ∧
  (∀ s k, s.cfg.failing = some k → step s = .refused (.badConfig k)) ∧
  (∀ s (w : Word), s.cfg.Ok → step (s.withFetchWord 32 w.toNat) = exec (decode w) s)

/-! ## Load and POWER (70_reset_and_hazards.md R240, 43_host_commands.md R171) -/

/-- Load refuses a configuration that fails a check of R8, by the check's name, and otherwise gives every field the
value of R240's table, with both logs empty. After POWER the fields hold the values of the table's second column. That
the load draw of a cell is `Config.loadCell`, cut to COLOR_BITS, is the model's choice (log entry 4). -/
def Obligations.LoadAndPowerValues : Prop :=
  (∀ c k, c.failing = some k → State.load c = .error k) ∧
  (∀ c, c.Ok → ∃ s, State.load c = .ok s ∧ s.cfg = c ∧ s.clock = 0 ∧ s.hcounter = 0 ∧ s.vcounter = 0 ∧
    s.frameLines = 0 ∧ s.usage = ⟨false, false, false⟩ ∧ (∀ y, s.recRead y = .unrec) ∧
    (∀ y x, s.fbRead y x = cutColor c (Config.loadCell y x)) ∧ s.vp = ⟨0, 0, 0, 0⟩ ∧
    s.status = ⟨false, false, false, false, 0, 0⟩ ∧ s.statusWord = (if c.dual then 0x10#32 else 0#32) ∧
    s.resp = 0 ∧ s.hist = [] ∧ s.faults = []) ∧
  (∀ s, ∃ t, exec .power s = .next t ∧ t.cfg = s.cfg ∧ t.clock = 0 ∧ t.hcounter = 0 ∧ t.vcounter = 0 ∧
    t.frameLines = 0 ∧ t.usage = ⟨false, false, false⟩ ∧ (∀ y, t.recRead y = .unrec) ∧
    (∀ y x, t.fbRead y x = s.fbRead y x) ∧ t.vp = ⟨0, 0, 0, 0⟩ ∧
    t.status = ⟨false, false, false, false, 0, 0⟩ ∧ t.statusWord = (if s.cfg.dual then 0x10#32 else 0#32) ∧
    t.resp = 0 ∧ (∃ es, t.hist = s.hist ++ es ∧ ∀ e ∈ es, ∃ k, e = .powerc k) ∧ t.faults = s.faults)

/-- POWER, in every state, halted or not: its word, what it zeroes, what it keeps, and the power calls in their order;
no other command makes a power call and none other leaves the halted state (R171, R201). -/
def Obligations.PowerResets : Prop :=
  decode 0x20000000#32 = .power ∧
  (∀ s : State, exec .power s = .next { s with
    clock := 0, hcounter := 0, vcounter := 0, frameLines := 0, usage := ⟨false, false, false⟩, record := []
    vp := ⟨0, 0, 0, 0⟩, status := ⟨false, false, false, false, 0, 0⟩, resp := 0
    hist := s.hist ++ (if s.cfg.dual then
        [.powerc .a, .powerc .b, .powerc .comb, .powerc .vce, .powerc .dma]
      else [.powerc .a, .powerc .vce, .powerc .dma]) }) ∧
  ∀ i s t, i ≠ .power → exec i s = .next t →
    (∃ es, t.hist = s.hist ++ es ∧ ∀ e ∈ es, ∀ k, e ≠ .powerc k) ∧
    (s.status.fatal = true → t.status.fatal = true)

/-! ## Invariants (10_state.md R34) -/

/-- The load state of every well-formed configuration meets the invariant, whatever the oracle, and so does
`State.reset`. The configuration of `State.reset` and the oracle fields are the model's (log entries 2 and 3). -/
def Obligations.LoadStateMeetsInv : Prop :=
  (∀ c tape draws, c.Ok → EngineInv (((State.initial c).setTape tape).setDraws draws)) ∧ EngineInv State.reset

/-- Every step keeps the invariant: INV1 to INV5 while FATAL = 0, the canonical form and bounds of the frame buffer and
the record, the legal fault status, and vpX = 0. `RowsAheadUnrec`, which makes INV4 inductive, and `RowsBehindRecorded`
are the model's inference (log entry 18). -/
def Obligations.StepKeepsInv : Prop :=
  ∀ s t, EngineInv s → step s = .next t → EngineInv t

/-- Under the invariant only Fatal(1) can occur, only where the latch is due, and only from the collaborator's answer
(R212, R112). -/
def Obligations.OnlyThresholdFaultIsReachable : Prop :=
  ∀ s t, EngineInv s → exec .tick s = .next t →
    t.faults = s.faults ∨
      (LatchDue s ∧ ∃ a : Int, (a < 0 ∨ s.cfg.nominalLines + a > s.cfg.bufH) ∧
        t.faults = s.faults ++ [⟨.fatal, 1, a⟩] ∧ .extra a ∈ newEvents s t)

/-- No command writes the configuration (R36). -/
def Obligations.NoCommandWritesConfiguration : Prop :=
  ∀ i s t, exec i s = .next t → t.cfg = s.cfg

/-- The history and the fault log only grow, and one command adds at most one fault record (R32, R33, R217). -/
def Obligations.LogsOnlyGrow : Prop :=
  ∀ i s t, exec i s = .next t →
    (∃ es, t.hist = s.hist ++ es) ∧ (t.faults = s.faults ∨ ∃ r, t.faults = s.faults ++ [r])

/-- In single-chip mode no command makes a call or query to chip B or the combiner (R203). -/
def Obligations.SingleChipModeNeverNamesChipB : Prop :=
  ∀ i s t, s.cfg.dual = false → exec i s = .next t →
    ∃ es, t.hist = s.hist ++ es ∧ ∀ e ∈ es, e.namesDual = false

/-! ## TICK (40_tick.md) -/

/-- Step 0: a halted engine ignores the TICK; a nonzero hcounter is Fatal(4) and illegal counters are Fatal(3), each
with FR cleared and nothing else changed; otherwise the TICK goes on with FR cleared (R100). -/
def Obligations.TickEntryChecks : Prop :=
  ∀ s : State,
    (s.status.fatal = true → exec .tick s = .next s) ∧
    (s.status.fatal = false → s.hcounter.toNat ≠ 0 → exec .tick s = .next { s with
      status := { s.status with
        fr := false, fatal := true, cause := if s.status.cause = 0 then 4 else s.status.cause }
      faults := s.faults ++ [⟨.fatal, 4, s.hcounter.toNat⟩] }) ∧
    (s.status.fatal = false → s.hcounter.toNat = 0 → ¬ Inv2 s → exec .tick s = .next { s with
      status := { s.status with
        fr := false, fatal := true, cause := if s.status.cause = 0 then 3 else s.status.cause }
      faults := s.faults ++ [⟨.fatal, 3, s.vcounter.toNat⟩] }) ∧
    (EntryOk s → exec .tick s = exec .tick { s with status := { s.status with fr := false } })

/-- A TICK with legal counters, whose extra-line answer (where it asks for one) is accepted, completes: the clock
advances by LINE_CYCLES modulo 2^64, hcounter is 0, no fault is recorded, resp is unchanged, and vcounter, frameLines
and FR follow steps 8a to 8c (R109 to R112). -/
def Obligations.TickCompletes : Prop :=
  ∀ s, s.cfg.Ok → EntryOk s → ThresholdOk s → ∃ t, exec .tick s = .next t ∧
    t.clock = s.clock + BitVec.ofNat 64 s.cfg.lineCycles ∧ t.hcounter.toNat = 0 ∧
    t.faults = s.faults ∧ t.status.fatal = false ∧ t.status.cause = s.status.cause ∧ t.resp = s.resp ∧
    (s.frameLines.toNat = 0 → s.vcounter.toNat + 1 < s.cfg.nominalLines →
      t.vcounter.toNat = s.vcounter.toNat + 1 ∧ t.frameLines.toNat = 0 ∧ t.status.fr = false) ∧
    (LatchDue s → extraAnswer s ≠ 0 →
      t.vcounter.toNat = s.cfg.nominalLines ∧
      (t.frameLines.toNat : Int) = s.cfg.nominalLines + extraAnswer s ∧ t.status.fr = false) ∧
    (LatchDue s → extraAnswer s = 0 →
      t.vcounter.toNat = 0 ∧ t.frameLines.toNat = 0 ∧ t.status.fr = true) ∧
    (s.frameLines.toNat ≠ 0 → s.vcounter.toNat + 1 < s.frameLines.toNat →
      t.vcounter.toNat = s.vcounter.toNat + 1 ∧ t.frameLines = s.frameLines ∧ t.status.fr = false) ∧
    (s.frameLines.toNat ≠ 0 → s.vcounter.toNat + 1 = s.frameLines.toNat →
      t.vcounter.toNat = 0 ∧ t.frameLines.toNat = 0 ∧ t.status.fr = true)

/-- An extra-line adjustment below 0 or a threshold beyond the buffer is Fatal(1): the TICK stops at the check, after
the line was counted and before any wrap (R110, R211). -/
def Obligations.BadThresholdIsFatal : Prop :=
  ∀ s, s.cfg.Ok → EntryOk s → LatchDue s →
    (extraAnswer s < 0 ∨ s.cfg.nominalLines + extraAnswer s > s.cfg.bufH) →
    ∃ t, exec .tick s = .next t ∧ t.status.fatal = true ∧
      t.status.cause = (if s.status.cause = 0 then 1 else s.status.cause) ∧
      t.faults = s.faults ++ [⟨.fatal, 1, extraAnswer s⟩] ∧ t.vcounter.toNat = s.cfg.nominalLines ∧
      t.hcounter.toNat = 0 ∧ t.frameLines.toNat = 0 ∧ t.status.fr = false ∧
      t.clock = s.clock + BitVec.ofNat 64 s.cfg.lineCycles ∧ t.vp = s.vp ∧
      t.hist.getLast? = some (.extra (extraAnswer s))

/-- A fatal fault of a TICK: one record, FATAL set, the first cause kept, no normalization and no frame-complete signal
(R211). -/
def Obligations.FatalFaultStopsTheTick : Prop :=
  ∀ s t, s.status.fatal = false → exec .tick s = .next t → t.status.fatal = true →
    ∃ (k : FatalCause) (info : Int), t.faults = s.faults ++ [⟨.fatal, k.code, info⟩] ∧
      t.status.cause = (if s.status.cause = 0 then k.code else s.status.cause) ∧ t.status.fr = false ∧
      t.vp = s.vp ∧ t.status.diag = s.status.diag ∧
      ∀ e ∈ newEvents s t, e ≠ .frameDone ∧ ∀ y, e ≠ .diag y

/-- Cycle accounting: a TICK that completes without a fault forwards exactly LINE_CYCLES cycles in exactly two DMA
events, PRE_CYCLES and then POST_CYCLES, adds LINE_CYCLES to the clock modulo 2^64 and leaves hcounter = 0 (R113). -/
def Obligations.TickCycleAccounting : Prop :=
  ∀ s t, s.cfg.Ok → s.status.fatal = false → exec .tick s = .next t → t.faults = s.faults →
    (newEvents s t).filter Event.isDma = [.dma s.cfg.preCycles, .dma s.cfg.postCycles] ∧
    s.cfg.preCycles + s.cfg.postCycles = s.cfg.lineCycles ∧
    t.clock = s.clock + BitVec.ofNat 64 s.cfg.lineCycles ∧ t.hcounter.toNat = 0

/-- The event sequence of one TICK with no fault (R115, with R103 and R138). The DIAG events are those of the Normalizer:
one for each UNREC band row of a frame that is not uniform, ascending, and none for a uniform frame (R151 to R153). -/
def Obligations.TickEventSequence : Prop :=
  ∀ s t, s.cfg.Ok → s.status.fatal = false → exec .tick s = .next t → t.faults = s.faults →
    ∃ comp ext tail : List Event,
      t.hist = s.hist ++ (chipEvents s.cfg .hsync ++
        (if s.vcounter.toNat = 0 then chipEvents s.cfg .vsync else []) ++ [.dma s.cfg.preCycles] ++
        chipEvents s.cfg .hclock ++ comp ++ [.dma s.cfg.postCycles] ++ chipEvents s.cfg .vclock ++ ext ++ tail) ∧
      (¬ s.cfg.InBand s.vcounter.toNat → comp = []) ∧
      (s.cfg.InBand s.vcounter.toNat → ∃ m g px, px.length = s.cfg.width m ∧ AnswersInRange s.cfg px ∧
        comp = composerEvents s.cfg m g px) ∧
      (LatchDue s → ext = [.extra (extraAnswer s)]) ∧ (¬ LatchDue s → ext = []) ∧
      (t.status.fr = false → tail = []) ∧
      (t.status.fr = true → t.usage.count = 1 → tail = [.frameDone]) ∧
      (t.status.fr = true → t.usage.count ≠ 1 →
        tail = (unrecRows t s.cfg.activeStart s.cfg.activeHeight).map .diag ++ [.frameDone])

/-- A TICK on a band row composes that row, also where it ends the frame or stops at the latch: the line's events are
among its events, the row's record entry is m and m's usage flag is set. After the line (`tickLine`, before the latch and
the wrap) the cells of the row's first WIDTH(m) columns hold the colors of the line's RESOLVE events and the row's other
columns keep their contents; a TICK that does not end the frame leaves every cell so (R106, R112, R134 to R138). What the
end of the frame makes of those cells is `TickNormalizesAtWrap`. -/
def Obligations.TickComposesBandRow : Prop :=
  ∀ s t, s.cfg.Ok → EntryOk s → s.cfg.InBand s.vcounter.toNat → exec .tick s = .next t →
    (∃ m g px, px.length = s.cfg.width m ∧ AnswersInRange s.cfg px ∧
      List.IsInfix (composerEvents s.cfg m g px) (newEvents s t) ∧
      (∀ x (hx : x < px.length), (tickLine s).state.fbRead s.vcounter.toNat x = px[x].2) ∧
      (∀ x, s.cfg.width m ≤ x → x < 65536 →
        (tickLine s).state.fbRead s.vcounter.toNat x = s.fbRead s.vcounter.toNat x) ∧
      t.recRead s.vcounter.toNat = .mode m ∧ t.usage.get m = true) ∧
    (t.status.fr = false → ∀ y x, t.fbRead y x = (tickLine s).state.fbRead y x)

/-- A TICK that ends a frame normalizes it, whatever its usage flags: with l the state after its line (`tickLine`), a
uniform frame gets its mode's crop rectangle, DIAG = 0 and no cell changed (R151); any other frame, a mixed or an empty
one, gets the canonical viewport, DIAG the number of its UNREC band rows up to 0xFFFF, every recorded band row stretched
by its own factor and every other cell as it was (R110, R152 to R158). The record and the usage flags stay (R159). In l
every cell outside a composed row of this TICK is what it was before the TICK. -/
def Obligations.TickNormalizesAtWrap : Prop :=
  ∀ s t, s.cfg.Ok → EntryOk s → exec .tick s = .next t → t.status.fr = true →
    let l := (tickLine s).state
    (∀ y x, x < 65536 → ¬(y = s.vcounter.toNat ∧ s.cfg.InBand y) → l.fbRead y x = s.fbRead y x) ∧
    l.cfg = s.cfg ∧ t.usage = l.usage ∧ t.record = l.record ∧
    (∀ m, l.usage.count = 1 → l.usage.get m = true →
      t.vp = ⟨0, BitVec.ofNat 16 s.cfg.activeStart, BitVec.ofNat 16 (s.cfg.width m),
        BitVec.ofNat 16 s.cfg.activeHeight⟩ ∧
      t.status.diag = 0 ∧ ∀ y x, t.fbRead y x = l.fbRead y x) ∧
    (l.usage.count ≠ 1 →
      t.vp = ⟨0, BitVec.ofNat 16 s.cfg.activeStart, BitVec.ofNat 16 s.cfg.canonicalWidth,
        BitVec.ofNat 16 s.cfg.activeHeight⟩ ∧
      t.status.diag.toNat = min (unrecRows l s.cfg.activeStart s.cfg.activeHeight).length 65535 ∧
      ∀ y x, x < 65536 → t.fbRead y x = if s.cfg.InBand y then stretchedRead l y x else l.fbRead y x)

/-- What a TICK leaves unchanged. It may write clock, hcounter, vcounter, frameLines, usage, record, cells of the band,
the viewport and DIAG (at a wrap only), FR, FATAL, CAUSE, and the two logs. A TICK that does not end the frame writes
cells of its own row alone; no TICK writes a cell outside the band or at or beyond the canonical width
(R52, R112, R135, R159). -/
def Obligations.TickFrame : Prop :=
  ∀ s t, s.cfg.Ok → exec .tick s = .next t →
    t.cfg = s.cfg ∧ t.resp = s.resp ∧ t.cmds = s.cmds ∧ t.status.ill = s.status.ill ∧
    t.status.range = s.status.range ∧
    (t.status.fr = false → t.vp = s.vp ∧ t.status.diag = s.status.diag) ∧
    (∀ y x, x < 65536 → ¬ s.cfg.InBand y → t.fbRead y x = s.fbRead y x) ∧
    (∀ y x, x < 65536 → s.cfg.canonicalWidth ≤ x → t.fbRead y x = s.fbRead y x) ∧
    (t.status.fr = false → ∀ y x, x < 65536 → y ≠ s.vcounter.toNat → t.fbRead y x = s.fbRead y x) ∧
    (s.vcounter.toNat ≠ 0 → ∀ y, y ≠ s.vcounter.toNat → t.recRead y = s.recRead y) ∧
    (∀ y, ¬ s.cfg.InBand y → t.recRead y = s.recRead y ∨ t.recRead y = .unrec) ∧
    (s.vcounter.toNat ≠ 0 → ∀ m, s.usage.get m = true → t.usage.get m = true) ∧
    (s.vcounter.toNat ≠ 0 → ¬ s.cfg.InBand s.vcounter.toNat → t.usage = s.usage)

/-- The first TICK of a frame clears the record and the usage flags: after it only row 0 can hold a mode, and only the
mode of row 0 can be flagged (R102, R241). -/
def Obligations.FrameStartClearsRecordAndUsage : Prop :=
  ∀ s t, s.cfg.Ok → EntryOk s → s.vcounter.toNat = 0 → exec .tick s = .next t →
    (∀ y, y ≠ 0 → t.recRead y = .unrec) ∧ ∀ m, t.usage.get m = true ↔ t.recRead 0 = .mode m

/-- n TICKs from load with no fault leave the clock at n * LINE_CYCLES modulo 2^64, and POWER sets it back to 0
(R116). -/
def Obligations.ClockCountsTicks : Prop :=
  (∀ c tape draws n, c.Ok →
    let s := ((State.initial c).setTape tape).setDraws draws
    NoFault (runTicks n s) → (runTicks n s).clock = BitVec.ofNat 64 (n * c.lineCycles)) ∧
  ∀ s t, exec .power s = .next t → t.clock = 0

/-- Frame period: from the start of a frame, while no fault occurs, the extra-line adjustment is asked for exactly once,
by the NOMINAL_LINES-th TICK, and with its answer a the frame-complete signal fires on the (NOMINAL_LINES + a)-th TICK
and on no earlier one (R114). -/
def Obligations.FramePeriod : Prop :=
  ∀ s, EngineInv s → s.status.fatal = false → s.vcounter.toNat = 0 → s.frameLines.toNat = 0 →
    (∀ n, n < s.cfg.nominalLines →
      (newEvents s (runTicks n s)).filter Event.isExtra = [] ∧
      (newEvents s (runTicks n s)).count .frameDone = 0) ∧
    ((runTicks s.cfg.nominalLines s).faults = s.faults →
      ∃ a : Nat, s.cfg.nominalLines + a ≤ s.cfg.bufH ∧
        (∀ n, s.cfg.nominalLines ≤ n → n ≤ s.cfg.nominalLines + a →
          (newEvents s (runTicks n s)).filter Event.isExtra = [.extra a] ∧
          (newEvents s (runTicks n s)).count .frameDone = (if n = s.cfg.nominalLines + a then 1 else 0)) ∧
        (runTicks (s.cfg.nominalLines + a) s).status.fr = true ∧
        (runTicks (s.cfg.nominalLines + a) s).vcounter.toNat = 0 ∧
        (runTicks (s.cfg.nominalLines + a) s).frameLines.toNat = 0)

/-! ## The Composer (41_compose.md) -/

/-- Composing a band row: the events of R138 and their number, each index and color of its type (R198, R199); the first WIDTH(m) cells of the row hold the colors that
the line's RESOLVE events answered and every other cell keeps its contents (R135, R140); the record entry and one usage
flag are written (R136, R137); nothing else of the engine changes (R130). -/
def Obligations.ComposeWritesTheRow : Prop :=
  ∀ s t, s.cfg.Ok → s.cfg.InBand s.vcounter.toNat → compose s = .go t →
    ∃ m g px, px.length = s.cfg.width m ∧ AnswersInRange s.cfg px ∧
      t.hist = s.hist ++ composerEvents s.cfg m g px ∧
      (composerEvents s.cfg m g px).length = (if s.cfg.dual then 3 else 2) + 2 * s.cfg.width m ∧
      (∀ x (hx : x < px.length), t.fbRead s.vcounter.toNat x = px[x].2) ∧
      (∀ y x, x < 65536 → ¬(y = s.vcounter.toNat ∧ x < s.cfg.width m) → t.fbRead y x = s.fbRead y x) ∧
      (∀ y, t.recRead y = if y = s.vcounter.toNat then .mode m else s.recRead y) ∧
      (∀ k, t.usage.get k = (s.usage.get k || decide (k = m))) ∧
      t = { s with
        fb := t.fb, record := t.record, usage := t.usage, hist := t.hist, tape := t.tape, draws := t.draws }

/-- A row outside the band raises Fatal(2) and the Composer stops before any query or write (R131). -/
def Obligations.ComposeOutsideBandIsFatal : Prop :=
  (∀ s : State, ¬ s.cfg.InBand s.vcounter.toNat → compose s = .stop { s with
    status := { s.status with fatal := true, cause := if s.status.cause = 0 then 2 else s.status.cause }
    faults := s.faults ++ [⟨.fatal, 2, s.vcounter.toNat⟩] }) ∧
  ∀ s : State, ¬ s.cfg.InBand s.vcounter.toNat → tickStep5 s = .go s

/-- Composing a row again with the same answers gives the same row, record entry and usage flags as composing it once
(R139). -/
def Obligations.RecomposingIsIdempotent : Prop :=
  ∀ y s, s.cfg.Ok →
    let once := composeRow y s
    let twice := composeRow y ((once.setTape s.tape).setDraws s.draws)
    (∀ y' x', x' < 65536 → twice.fbRead y' x' = once.fbRead y' x') ∧
      (∀ y', twice.recRead y' = once.recRead y') ∧ twice.usage = once.usage

/-! ## The Normalizer (42_normalize.md) -/

/-- The backward in-place stretch gives the row that a copy with replication gives: cell j holds the old cell j div k
below w * k, and every other cell is unchanged (R157, R154). -/
def Obligations.StretchInPlaceEqualsScratch : Prop :=
  ∀ y w k s, 1 ≤ k → w * k ≤ 65536 →
    (∀ j, j < w * k → (stretch y w k s).fbRead y j = s.fbRead y (j / k)) ∧
    (∀ j, w * k ≤ j → j < 65536 → (stretch y w k s).fbRead y j = s.fbRead y j) ∧
    (∀ y' x', y' ≠ y → x' < 65536 → (stretch y w k s).fbRead y' x' = s.fbRead y' x') ∧
    (∀ p q, p < w → q < k → (stretch y w k s).fbRead y (p * k + q) = s.fbRead y p)

/-- A uniform frame: exactly one usage flag set gives the mode's own crop rectangle, DIAG = 0, and no pixel is modified
(R151). -/
def Obligations.UniformFrameIsCropped : Prop :=
  ∀ s m, s.cfg.Ok → s.usage.count = 1 → s.usage.get m = true →
    normalizeFrame s = { s with
      status := { s.status with diag := 0 }
      vp := ⟨0, BitVec.ofNat 16 s.cfg.activeStart, BitVec.ofNat 16 (s.cfg.width m),
        BitVec.ofNat 16 s.cfg.activeHeight⟩ } ∧
    (normalizeFrame s).vp.y.toNat = s.cfg.activeStart ∧ (normalizeFrame s).vp.w.toNat = s.cfg.width m ∧
    (normalizeFrame s).vp.h.toNat = s.cfg.activeHeight

/-- A frame of one mode round-trips: where a TICK ends a frame all of whose band rows were composed at mode m, the
viewport is that mode's crop of the band, DIAG is 0 and every cell is what the composition left (R161, W1 being the
source's case). -/
def Obligations.FrameOfOneModeRoundTrips : Prop :=
  ∀ s t m, EngineInv s → s.status.fatal = false → exec .tick s = .next t → t.status.fr = true →
    (∀ y, s.cfg.InBand y → t.recRead y = .mode m) →
    t.vp = ⟨0, BitVec.ofNat 16 s.cfg.activeStart, BitVec.ofNat 16 (s.cfg.width m),
      BitVec.ofNat 16 s.cfg.activeHeight⟩ ∧
    t.status.diag = 0 ∧ ∀ y x, t.fbRead y x = (tickLine s).state.fbRead y x

/-- A mixed frame: every recorded band row is replicated to the canonical width by its own factor, every UNREC band row
is left as it is, counted in DIAG and reported, ascending; rows outside the band are not visited; the viewport is the
canonical one (R152 to R156). -/
def Obligations.MixedFrameIsStretched : Prop :=
  ∀ s, s.cfg.Ok → s.usage.count ≠ 1 →
    (∀ y x, x < 65536 → (normalizeFrame s).fbRead y x =
      if s.cfg.InBand y then stretchedRead s y x else s.fbRead y x) ∧
    (normalizeFrame s).vp = ⟨0, BitVec.ofNat 16 s.cfg.activeStart, BitVec.ofNat 16 s.cfg.canonicalWidth,
      BitVec.ofNat 16 s.cfg.activeHeight⟩ ∧
    (normalizeFrame s).status.diag.toNat = min (unrecRows s s.cfg.activeStart s.cfg.activeHeight).length 65535 ∧
    (normalizeFrame s).hist = s.hist ++ (unrecRows s s.cfg.activeStart s.cfg.activeHeight).map .diag

/-- An empty frame (no usage flag set): by INV4 every band row is UNREC; no pixel changes, DIAG = ACTIVE_HEIGHT, one
diagnostic event per band row in ascending order, and the canonical viewport (R158). -/
def Obligations.EmptyFrameReportsEveryRow : Prop :=
  ∀ s, s.cfg.Ok → Inv4 s → s.usage = ⟨false, false, false⟩ →
    (∀ y, s.cfg.InBand y → s.recRead y = .unrec) ∧
    normalizeFrame s = { s with
      status := { s.status with diag := BitVec.ofNat 16 s.cfg.activeHeight }
      hist := s.hist ++ (List.range' s.cfg.activeStart s.cfg.activeHeight).map .diag
      vp := ⟨0, BitVec.ofNat 16 s.cfg.activeStart, BitVec.ofNat 16 s.cfg.canonicalWidth,
        BitVec.ofNat 16 s.cfg.activeHeight⟩ }

/-- At a wrap a band row is UNREC exactly when the frame did not reach it, that is, when the threshold, the number of the
frame's lines, is at most that row (R153's last sentence). The invariant includes the inference of log entry 18. -/
def Obligations.UnreachedRowsAreUnrec : Prop :=
  ∀ s t, EngineInv s → s.status.fatal = false → exec .tick s = .next t → t.status.fr = true →
    ∀ y, s.cfg.InBand y → (t.recRead y = .unrec ↔ s.vcounter.toNat + 1 ≤ y)

/-- The Normalizer writes only the viewport, DIAG and band cells, and cells only in a mixed frame; the usage flags and
the record stay (R159). The history gains the diagnostics. -/
def Obligations.NormalizerFrame : Prop :=
  ∀ s, s.cfg.Ok →
    normalizeFrame s = { s with
      vp := (normalizeFrame s).vp, status := { s.status with diag := (normalizeFrame s).status.diag }
      fb := (normalizeFrame s).fb, hist := (normalizeFrame s).hist } ∧
    (s.usage.count = 1 → (normalizeFrame s).fb = s.fb) ∧
    (∀ y x, x < 65536 → ¬ s.cfg.InBand y → (normalizeFrame s).fbRead y x = s.fbRead y x)

/-- One band row at mode m and every other band row at the canonical width, in a mixed frame: each source pixel of the
one row appears as FACTOR(m) identical consecutive pixels over the canonical width, and no canonical-width row is
altered (R160). -/
def Obligations.OneNarrowRowIsReplicated : Prop :=
  ∀ s r m c, s.cfg.Ok → s.usage.count ≠ 1 → s.cfg.InBand r → s.recRead r = .mode m →
    s.cfg.width c = s.cfg.canonicalWidth → (∀ y, s.cfg.InBand y → y ≠ r → s.recRead y = .mode c) →
    s.cfg.factor m * s.cfg.width m = s.cfg.canonicalWidth ∧
    (∀ p q, p < s.cfg.width m → q < s.cfg.factor m →
      (normalizeFrame s).fbRead r (p * s.cfg.factor m + q) = s.fbRead r p) ∧
    (∀ y x, s.cfg.InBand y → y ≠ r → x < 65536 → (normalizeFrame s).fbRead y x = s.fbRead y x)

/-! ## The read commands and ILLEGAL (43_host_commands.md, 60_exceptions.md) -/

/-- RDPIX in its three cases: in range with the window open, the cell; in range with it closed, a draw cut to
COLOR_BITS; out of range, the Range fault (R172). The draw is the free value of log entry 3. -/
def Obligations.RdpixResult : Prop :=
  ∀ (x y : BitVec 14) (s : State),
    (x.toNat < s.cfg.bufW → y.toNat < s.cfg.bufH → s.status.fr = true →
      exec (.rdpix x y) s = .next { s with resp := s.fbRead y.toNat x.toNat }) ∧
    (x.toNat < s.cfg.bufW → y.toNat < s.cfg.bufH → s.status.fr = false →
      exec (.rdpix x y) s = .next { s.draw.2 with resp := cutColor s.cfg s.draw.1 }) ∧
    (¬(x.toNat < s.cfg.bufW ∧ y.toNat < s.cfg.bufH) →
      exec (.rdpix x y) s = .next { s with
        status := { s.status with range := true }
        faults := s.faults ++ [⟨.range, 0, (encode (.rdpix x y)).toNat⟩], resp := 0 })

/-- RDREG: registers 1 to 4 outside the read window give a draw, every other read the value of the register map, and
nothing else changes; the words are those of registers 0 to 9 (R77, R78, R173). -/
def Obligations.RdregResult : Prop :=
  (∀ s : State, exec (.rdreg .status) s = .next { s with resp := s.statusWord }) ∧
  (∀ s : State, s.status.fr = true →
    exec (.rdreg .vpX) s = .next { s with resp := s.vp.x.setWidth 32 } ∧
    exec (.rdreg .vpY) s = .next { s with resp := s.vp.y.setWidth 32 } ∧
    exec (.rdreg .vpW) s = .next { s with resp := s.vp.w.setWidth 32 } ∧
    exec (.rdreg .vpH) s = .next { s with resp := s.vp.h.setWidth 32 }) ∧
  (∀ s : State, s.status.fr = false → ∀ r ∈ [Reg.vpX, .vpY, .vpW, .vpH],
    exec (.rdreg r) s = .next { s.draw.2 with resp := BitVec.ofInt 32 s.draw.1 }) ∧
  (∀ s : State,
    exec (.rdreg .hcounter) s = .next { s with resp := s.hcounter.setWidth 32 } ∧
    exec (.rdreg .vcounter) s = .next { s with resp := s.vcounter.setWidth 32 } ∧
    exec (.rdreg .clockLo) s = .next { s with resp := s.clock.extractLsb' 0 32 } ∧
    exec (.rdreg .clockHi) s = .next { s with resp := s.clock.extractLsb' 32 32 } ∧
    exec (.rdreg .frameLines) s = .next { s with resp := s.frameLines.setWidth 32 }) ∧
  [Reg.status, .vpX, .vpY, .vpW, .vpH, .hcounter, .vcounter, .clockLo, .clockHi, .frameLines].map Reg.number =
    [0, 1, 2, 3, 4, 5, 6, 7, 8, 9] ∧
  (∀ w : Word, w.extractLsb' 8 24 = 0x400000#24 → 10 ≤ (w.extractLsb' 0 8).toNat → decode w = .illegal w)

/-- The status word: each field of R29's table at its bits. -/
def Obligations.StatusWordLayout : Prop :=
  ∀ s : State,
    s.statusWord.getLsbD 0 = s.status.fr ∧ s.statusWord.getLsbD 1 = s.status.fatal ∧
    s.statusWord.getLsbD 2 = s.status.ill ∧ s.statusWord.getLsbD 3 = s.status.range ∧
    s.statusWord.getLsbD 4 = s.cfg.dual ∧ s.statusWord.getLsbD 5 = s.usage.get .w1 ∧
    s.statusWord.getLsbD 6 = s.usage.get .w2 ∧ s.statusWord.getLsbD 7 = s.usage.get .w3 ∧
    s.statusWord.extractLsb' 8 8 = s.status.cause ∧ s.statusWord.extractLsb' 16 16 = s.status.diag

/-- RDREC: the record code at every time, or the Range fault (R174). -/
def Obligations.RdrecResult : Prop :=
  ∀ (y : BitVec 14) (s : State),
    (y.toNat < s.cfg.bufH → exec (.rdrec y) s = .next { s with
      resp := match s.recRead y.toNat with
        | .unrec => 0
        | .mode .w1 => 1
        | .mode .w2 => 2
        | .mode .w3 => 3 }) ∧
    (¬ y.toNat < s.cfg.bufH → exec (.rdrec y) s = .next { s with
      status := { s.status with range := true }
      faults := s.faults ++ [⟨.range, 0, (encode (.rdrec y)).toNat⟩], resp := 0 })

/-- Between commands a row outside the band reads 0 (R174, R52; it rests on INV3). -/
def Obligations.RecordOutsideBandReadsZero : Prop :=
  ∀ (y : BitVec 14) s, EngineInv s → s.status.fatal = false → y.toNat < s.cfg.bufH → ¬ s.cfg.InBand y.toNat →
    exec (.rdrec y) s = .next { s with resp := 0 }

/-- A Range fault logs the very word the host sent, sets RANGE and a zero response, reads no cell and changes nothing
else; RANGE stays until POWER (R215). -/
def Obligations.RangeFault : Prop :=
  (∀ (w : Word) (s : State),
    ((∃ x y, decode w = .rdpix x y ∧ ¬(x.toNat < s.cfg.bufW ∧ y.toNat < s.cfg.bufH)) ∨
      ∃ y, decode w = .rdrec y ∧ ¬ y.toNat < s.cfg.bufH) →
    exec (decode w) s = .next { s with
      status := { s.status with range := true }, faults := s.faults ++ [⟨.range, 0, w.toNat⟩], resp := 0 }) ∧
  ∀ i s t, i ≠ .power → exec i s = .next t → s.status.range = true → t.status.range = true

/-- An illegal word sets ILL, logs (Illegal, 0, word) and changes nothing else, halted or not; ILL stays until POWER
(R214). -/
def Obligations.IllegalCommand : Prop :=
  (∀ (w u : Word) (s : State), decode w = .illegal u → exec (decode w) s = .next { s with
    status := { s.status with ill := true }, faults := s.faults ++ [⟨.illegal, 0, w.toNat⟩] }) ∧
  ∀ i s t, i ≠ .power → exec i s = .next t → s.status.ill = true → t.status.ill = true

/-- No read command changes any state but resp and, on a fault, RANGE and the fault log (the oracle's fields are the
model's own, log entry 3); no read makes a collaborator call; no read ends the read window (R175). -/
def Obligations.ReadsChangeOnlyTheResponse : Prop :=
  ∀ i s t, isReadCommand i = true → exec i s = .next t →
    t = { s with
      resp := t.resp, tape := t.tape, draws := t.draws, faults := t.faults
      status := { s.status with range := t.status.range } } ∧
    (t.faults = s.faults → t.status.range = s.status.range)

/-- A read is idempotent: the same read again, with no command between, gives the same response, but for the draws
outside the read window (R56). -/
def Obligations.ReadsAreIdempotent : Prop :=
  ∀ i s t u, isReadCommand i = true →
    (s.status.fr = true ∨ (∃ y, i = .rdrec y) ∨ ∃ r, i = .rdreg r ∧ isViewportReg r = false) →
    exec i s = .next t → exec i t = .next u → u.resp = t.resp

/-- The response register: every read writes it, whatever it held; POWER clears it; TICK and ILLEGAL leave it; it is 0
at reset (R30). -/
def Obligations.ResponseRegisterWriters : Prop :=
  (∀ i s v, isReadCommand i = true → exec i (s.setResp v) = exec i s) ∧
  (∀ s t, exec .power s = .next t → t.resp = 0) ∧
  (∀ s t, exec .tick s = .next t → t.resp = s.resp) ∧
  (∀ w s t, exec (.illegal w) s = .next t → t.resp = s.resp) ∧
  (∀ c, (State.initial c).resp = 0) ∧ State.reset.resp = 0

/-- The read window: outside it the value of an RDPIX in range is any color and that of a viewport read any word,
unconstrained by the state; inside it the value is the state's (R176). -/
def Obligations.ReadWindow : Prop :=
  (∀ (x y : BitVec 14) (s : State) (v : Color), s.status.fr = false → x.toNat < s.cfg.bufW → y.toNat < s.cfg.bufH →
    v.toNat < 2 ^ s.cfg.colorBits →
    ∃ t, exec (.rdpix x y) { s with tape := (v.toNat : Int) :: s.tape } = .next t ∧ t.resp = v) ∧
  (∀ r (s : State) (v : Word), isViewportReg r = true → s.status.fr = false →
    ∃ t, exec (.rdreg r) { s with tape := (v.toNat : Int) :: s.tape } = .next t ∧ t.resp = v) ∧
  (∀ (x y : BitVec 14) (s : State), s.status.fr = true → x.toNat < s.cfg.bufW → y.toNat < s.cfg.bufH →
    ∃ t, exec (.rdpix x y) s = .next t ∧ t.resp = s.fbRead y.toNat x.toNat) ∧
  (∀ r (s : State), s.status.fr = true → ∃ t, exec (.rdreg r) s = .next t ∧ t.resp = s.readReg r)

/-- The halted state: TICK does nothing; the reads work as usual, that is, they do what they do with FATAL clear, but
that STATUS shows FATAL and CAUSE; an illegal word still raises Illegal; POWER clears FATAL and CAUSE, keeps the fault
log and leaves counters with which a TICK can run (R213). -/
def Obligations.HaltedState : Prop :=
  ∀ s : State, s.status.fatal = true →
    exec .tick s = .next s ∧
    (∀ i t, isReadCommand i = true → i ≠ .rdreg .status →
      exec i { s with status := { s.status with fatal := false } } = .next t →
      exec i s = .next { t with status := { t.status with fatal := true } }) ∧
    (∃ t, exec (.rdreg .status) s = .next t ∧ t.resp.getLsbD 1 = true ∧
      t.resp.extractLsb' 8 8 = s.status.cause) ∧
    (∀ w, ∃ t, exec (.illegal w) s = .next t ∧ t.status.ill = true ∧
      t.faults = s.faults ++ [⟨.illegal, 0, w.toNat⟩]) ∧
    ∃ t, exec .power s = .next t ∧ t.status.fatal = false ∧ t.status.cause = 0 ∧ t.faults = s.faults ∧
      (s.cfg.Ok → EntryOk t)

/-- FATAL and CAUSE stay until POWER: no other command clears FATAL, and none changes a CAUSE that is set (R211, R213,
R219). -/
def Obligations.FatalStaysUntilPower : Prop :=
  ∀ i s t, i ≠ .power → exec i s = .next t →
    (s.status.fatal = true → t.status.fatal = true) ∧
    (s.status.cause ≠ 0 → t.status.cause = s.status.cause)

/-- Only TICK writes the frame buffer, and only TICK and POWER write the counters, the usage flags, the record, the
viewport, DIAG, FR and the history (R64, R22, R223). -/
def Obligations.OnlyTickAndPowerWriteEngineState : Prop :=
  ∀ i s t, i ≠ .tick → exec i s = .next t →
    t.fb = s.fb ∧ (i ≠ .power →
      t.clock = s.clock ∧ t.hcounter = s.hcounter ∧ t.vcounter = s.vcounter ∧ t.frameLines = s.frameLines ∧
      t.usage = s.usage ∧ t.record = s.record ∧ t.vp = s.vp ∧ t.status.diag = s.status.diag ∧
      t.status.fr = s.status.fr ∧ t.hist = s.hist)
end

