-- ==== Sys2Proof/Laws/Memory.lean ====
section
/-! SUPPORT. The sparse arrays: a read after a write gives the value written, a write leaves every other index alone,
and every operation keeps the canonical form. -/

namespace Sys2Proof.Machine

variable {α : Type}

@[simp] theorem Memory.lookup_nil (k : Nat) : Memory.lookup ([] : Memory α) k = none := rfl

@[simp] theorem Memory.lookup_insert_same (m : Memory α) (k : Nat) (v : α) :
    Memory.lookup (Memory.insert m k v) k = some v := by
  induction m with
  | nil => simp [Memory.insert, Memory.lookup]
  | cons e rest ih =>
    obtain ⟨a, u⟩ := e
    by_cases hlt : k < a
    · simp [Memory.insert, hlt, Memory.lookup]
    · by_cases heq : k = a
      · simp [Memory.insert, heq, Memory.lookup]
      · simp [Memory.insert, hlt, heq, Memory.lookup, ih]

theorem Memory.lookup_insert_ne (m : Memory α) {k j : Nat} (v : α) (h : j ≠ k) :
    Memory.lookup (Memory.insert m k v) j = Memory.lookup m j := by
  induction m with
  | nil => simp [Memory.insert, Memory.lookup, h]
  | cons e rest ih =>
    obtain ⟨a, u⟩ := e
    by_cases hlt : k < a
    · simp [Memory.insert, hlt, Memory.lookup, h]
    · by_cases heq : k = a
      · subst heq
        simp [Memory.insert, Memory.lookup, h]
      · simp [Memory.insert, hlt, heq, Memory.lookup, ih]

@[simp] theorem Memory.lookup_erase_same (m : Memory α) (k : Nat) : Memory.lookup (Memory.erase m k) k = none := by
  induction m with
  | nil => rfl
  | cons e rest ih =>
    obtain ⟨a, u⟩ := e
    by_cases h : a = k
    · simpa [Memory.erase, h] using ih
    · have h' : k ≠ a := fun e => h e.symm
      simpa [Memory.erase, h, h', Memory.lookup] using ih

theorem Memory.lookup_erase_ne (m : Memory α) {k j : Nat} (h : j ≠ k) :
    Memory.lookup (Memory.erase m k) j = Memory.lookup m j := by
  induction m with
  | nil => rfl
  | cons e rest ih =>
    obtain ⟨a, u⟩ := e
    by_cases hak : a = k
    · have hja : j ≠ a := fun e => h (e.trans hak)
      simpa [Memory.erase, hak, Memory.lookup, hja, h] using ih
    · by_cases hja : j = a
      · simp [Memory.erase, hak, Memory.lookup, hja]
      · simpa [Memory.erase, hak, Memory.lookup, hja] using ih

/-- Every element of an array after a write is the one written or was there before. -/
theorem Memory.mem_insert {m : Memory α} {k : Nat} {v : α} {e : Nat × α} (h : e ∈ Memory.insert m k v) :
    e = (k, v) ∨ e ∈ m := by
  induction m with
  | nil => simpa [Memory.insert] using h
  | cons d rest ih =>
    obtain ⟨a, u⟩ := d
    by_cases hlt : k < a
    · simpa [Memory.insert, hlt] using h
    · by_cases heq : k = a
      · rcases (by simpa [Memory.insert, heq] using h : e = (a, v) ∨ e ∈ rest) with h | h
        · exact .inl (by simpa [heq] using h)
        · exact .inr (List.mem_cons_of_mem _ h)
      · rcases (by simpa [Memory.insert, hlt, heq] using h : e = (a, u) ∨ e ∈ Memory.insert rest k v) with h | h
        · exact .inr (by simp [h])
        · exact (ih h).imp id (List.mem_cons_of_mem _)

/-- A listed element is an element of the list. -/
theorem Memory.mem_of_lookup {m : Memory α} {k : Nat} {v : α} (h : Memory.lookup m k = some v) : (k, v) ∈ m := by
  induction m with
  | nil => simp at h
  | cons d rest ih =>
    obtain ⟨a, u⟩ := d
    by_cases hk : k = a
    · simp_all [Memory.lookup]
    · exact List.mem_cons_of_mem _ (ih (by simpa [Memory.lookup, hk] using h))

@[simp] theorem Memory.wf_nil : Memory.wf ([] : Memory α) := by simp [Memory.wf]

/-- A write keeps the canonical form. -/
theorem Memory.wf_insert {m : Memory α} (h : Memory.wf m) (k : Nat) (v : α) : Memory.wf (Memory.insert m k v) := by
  induction m with
  | nil => simp [Memory.insert, Memory.wf]
  | cons d rest ih =>
    obtain ⟨a, u⟩ := d
    have hc : (∀ x ∈ rest.map Prod.fst, a < x) ∧ Memory.wf rest := by
      simpa [Memory.wf, List.pairwise_cons] using h
    by_cases hlt : k < a
    · have : Memory.wf ((k, v) :: (a, u) :: rest) := by
        refine List.pairwise_cons.mpr ⟨?_, h⟩
        intro x hx
        rcases List.mem_cons.mp hx with rfl | hx
        · exact hlt
        · exact Nat.lt_trans hlt (hc.1 x hx)
      simpa [Memory.insert, hlt] using this
    · by_cases heq : k = a
      · have : Memory.wf ((a, v) :: rest) := List.pairwise_cons.mpr hc
        simpa [Memory.insert, heq] using this
      · have : Memory.wf ((a, u) :: Memory.insert rest k v) := by
          refine List.pairwise_cons.mpr ⟨?_, ih hc.2⟩
          intro x hx
          obtain ⟨e, he, rfl⟩ := List.mem_map.mp hx
          rcases Memory.mem_insert he with rfl | he
          · exact Nat.lt_of_le_of_ne (Nat.le_of_not_lt hlt) (fun e => heq e.symm)
          · exact hc.1 _ (List.mem_map_of_mem he)
        simpa [Memory.insert, hlt, heq] using this

/-- Unlisting an index keeps the canonical form. -/
theorem Memory.wf_erase {m : Memory α} (h : Memory.wf m) (k : Nat) : Memory.wf (Memory.erase m k) :=
  List.Pairwise.sublist (List.Sublist.map _ List.filter_sublist) h

/-- In canonical form a listed element is what its index reads as. -/
theorem Memory.lookup_of_mem {m : Memory α} (h : Memory.wf m) {k : Nat} {v : α} (hm : (k, v) ∈ m) :
    Memory.lookup m k = some v := by
  induction m with
  | nil => cases hm
  | cons d rest ih =>
    obtain ⟨a, u⟩ := d
    have hc : (∀ x ∈ rest.map Prod.fst, a < x) ∧ Memory.wf rest := by
      simpa [Memory.wf, List.pairwise_cons] using h
    rcases List.mem_cons.mp hm with heq | hm
    · cases heq
      simp [Memory.lookup]
    · have : a < k := hc.1 k (List.mem_map_of_mem (f := Prod.fst) hm)
      simpa [Memory.lookup, Nat.ne_of_gt this] using ih hc.2 hm

end Sys2Proof.Machine
end

