-- ==== Sys2Proof/Laws/State.lean ====
section
/-! SUPPORT. What each field holds after each one-field update: one lemma per field per update, so that no proof unfolds
a record update. -/

namespace Sys2Proof.Machine

variable (s : State)

@[simp] theorem State.setClock_cfg (v : BitVec 64) : (s.setClock v).cfg = s.cfg := rfl
@[simp] theorem State.setClock_clock (v : BitVec 64) : (s.setClock v).clock = v := rfl
@[simp] theorem State.setClock_hcounter (v : BitVec 64) : (s.setClock v).hcounter = s.hcounter := rfl
@[simp] theorem State.setClock_vcounter (v : BitVec 64) : (s.setClock v).vcounter = s.vcounter := rfl
@[simp] theorem State.setClock_frameLines (v : BitVec 64) : (s.setClock v).frameLines = s.frameLines := rfl
@[simp] theorem State.setClock_usage (v : BitVec 64) : (s.setClock v).usage = s.usage := rfl
@[simp] theorem State.setClock_record (v : BitVec 64) : (s.setClock v).record = s.record := rfl
@[simp] theorem State.setClock_fb (v : BitVec 64) : (s.setClock v).fb = s.fb := rfl
@[simp] theorem State.setClock_vp (v : BitVec 64) : (s.setClock v).vp = s.vp := rfl
@[simp] theorem State.setClock_status (v : BitVec 64) : (s.setClock v).status = s.status := rfl
@[simp] theorem State.setClock_resp (v : BitVec 64) : (s.setClock v).resp = s.resp := rfl
@[simp] theorem State.setClock_hist (v : BitVec 64) : (s.setClock v).hist = s.hist := rfl
@[simp] theorem State.setClock_faults (v : BitVec 64) : (s.setClock v).faults = s.faults := rfl
@[simp] theorem State.setClock_cmds (v : BitVec 64) : (s.setClock v).cmds = s.cmds := rfl
@[simp] theorem State.setClock_tape (v : BitVec 64) : (s.setClock v).tape = s.tape := rfl
@[simp] theorem State.setClock_draws (v : BitVec 64) : (s.setClock v).draws = s.draws := rfl

@[simp] theorem State.setHcounter_cfg (v : BitVec 16) : (s.setHcounter v).cfg = s.cfg := rfl
@[simp] theorem State.setHcounter_clock (v : BitVec 16) : (s.setHcounter v).clock = s.clock := rfl
@[simp] theorem State.setHcounter_hcounter (v : BitVec 16) : (s.setHcounter v).hcounter = v := rfl
@[simp] theorem State.setHcounter_vcounter (v : BitVec 16) : (s.setHcounter v).vcounter = s.vcounter := rfl
@[simp] theorem State.setHcounter_frameLines (v : BitVec 16) : (s.setHcounter v).frameLines = s.frameLines := rfl
@[simp] theorem State.setHcounter_usage (v : BitVec 16) : (s.setHcounter v).usage = s.usage := rfl
@[simp] theorem State.setHcounter_record (v : BitVec 16) : (s.setHcounter v).record = s.record := rfl
@[simp] theorem State.setHcounter_fb (v : BitVec 16) : (s.setHcounter v).fb = s.fb := rfl
@[simp] theorem State.setHcounter_vp (v : BitVec 16) : (s.setHcounter v).vp = s.vp := rfl
@[simp] theorem State.setHcounter_status (v : BitVec 16) : (s.setHcounter v).status = s.status := rfl
@[simp] theorem State.setHcounter_resp (v : BitVec 16) : (s.setHcounter v).resp = s.resp := rfl
@[simp] theorem State.setHcounter_hist (v : BitVec 16) : (s.setHcounter v).hist = s.hist := rfl
@[simp] theorem State.setHcounter_faults (v : BitVec 16) : (s.setHcounter v).faults = s.faults := rfl
@[simp] theorem State.setHcounter_cmds (v : BitVec 16) : (s.setHcounter v).cmds = s.cmds := rfl
@[simp] theorem State.setHcounter_tape (v : BitVec 16) : (s.setHcounter v).tape = s.tape := rfl
@[simp] theorem State.setHcounter_draws (v : BitVec 16) : (s.setHcounter v).draws = s.draws := rfl

@[simp] theorem State.setVcounter_cfg (v : BitVec 16) : (s.setVcounter v).cfg = s.cfg := rfl
@[simp] theorem State.setVcounter_clock (v : BitVec 16) : (s.setVcounter v).clock = s.clock := rfl
@[simp] theorem State.setVcounter_hcounter (v : BitVec 16) : (s.setVcounter v).hcounter = s.hcounter := rfl
@[simp] theorem State.setVcounter_vcounter (v : BitVec 16) : (s.setVcounter v).vcounter = v := rfl
@[simp] theorem State.setVcounter_frameLines (v : BitVec 16) : (s.setVcounter v).frameLines = s.frameLines := rfl
@[simp] theorem State.setVcounter_usage (v : BitVec 16) : (s.setVcounter v).usage = s.usage := rfl
@[simp] theorem State.setVcounter_record (v : BitVec 16) : (s.setVcounter v).record = s.record := rfl
@[simp] theorem State.setVcounter_fb (v : BitVec 16) : (s.setVcounter v).fb = s.fb := rfl
@[simp] theorem State.setVcounter_vp (v : BitVec 16) : (s.setVcounter v).vp = s.vp := rfl
@[simp] theorem State.setVcounter_status (v : BitVec 16) : (s.setVcounter v).status = s.status := rfl
@[simp] theorem State.setVcounter_resp (v : BitVec 16) : (s.setVcounter v).resp = s.resp := rfl
@[simp] theorem State.setVcounter_hist (v : BitVec 16) : (s.setVcounter v).hist = s.hist := rfl
@[simp] theorem State.setVcounter_faults (v : BitVec 16) : (s.setVcounter v).faults = s.faults := rfl
@[simp] theorem State.setVcounter_cmds (v : BitVec 16) : (s.setVcounter v).cmds = s.cmds := rfl
@[simp] theorem State.setVcounter_tape (v : BitVec 16) : (s.setVcounter v).tape = s.tape := rfl
@[simp] theorem State.setVcounter_draws (v : BitVec 16) : (s.setVcounter v).draws = s.draws := rfl

@[simp] theorem State.setFrameLines_cfg (v : BitVec 16) : (s.setFrameLines v).cfg = s.cfg := rfl
@[simp] theorem State.setFrameLines_clock (v : BitVec 16) : (s.setFrameLines v).clock = s.clock := rfl
@[simp] theorem State.setFrameLines_hcounter (v : BitVec 16) : (s.setFrameLines v).hcounter = s.hcounter := rfl
@[simp] theorem State.setFrameLines_vcounter (v : BitVec 16) : (s.setFrameLines v).vcounter = s.vcounter := rfl
@[simp] theorem State.setFrameLines_frameLines (v : BitVec 16) : (s.setFrameLines v).frameLines = v := rfl
@[simp] theorem State.setFrameLines_usage (v : BitVec 16) : (s.setFrameLines v).usage = s.usage := rfl
@[simp] theorem State.setFrameLines_record (v : BitVec 16) : (s.setFrameLines v).record = s.record := rfl
@[simp] theorem State.setFrameLines_fb (v : BitVec 16) : (s.setFrameLines v).fb = s.fb := rfl
@[simp] theorem State.setFrameLines_vp (v : BitVec 16) : (s.setFrameLines v).vp = s.vp := rfl
@[simp] theorem State.setFrameLines_status (v : BitVec 16) : (s.setFrameLines v).status = s.status := rfl
@[simp] theorem State.setFrameLines_resp (v : BitVec 16) : (s.setFrameLines v).resp = s.resp := rfl
@[simp] theorem State.setFrameLines_hist (v : BitVec 16) : (s.setFrameLines v).hist = s.hist := rfl
@[simp] theorem State.setFrameLines_faults (v : BitVec 16) : (s.setFrameLines v).faults = s.faults := rfl
@[simp] theorem State.setFrameLines_cmds (v : BitVec 16) : (s.setFrameLines v).cmds = s.cmds := rfl
@[simp] theorem State.setFrameLines_tape (v : BitVec 16) : (s.setFrameLines v).tape = s.tape := rfl
@[simp] theorem State.setFrameLines_draws (v : BitVec 16) : (s.setFrameLines v).draws = s.draws := rfl

@[simp] theorem State.setUsage_cfg (v : Usage) : (s.setUsage v).cfg = s.cfg := rfl
@[simp] theorem State.setUsage_clock (v : Usage) : (s.setUsage v).clock = s.clock := rfl
@[simp] theorem State.setUsage_hcounter (v : Usage) : (s.setUsage v).hcounter = s.hcounter := rfl
@[simp] theorem State.setUsage_vcounter (v : Usage) : (s.setUsage v).vcounter = s.vcounter := rfl
@[simp] theorem State.setUsage_frameLines (v : Usage) : (s.setUsage v).frameLines = s.frameLines := rfl
@[simp] theorem State.setUsage_usage (v : Usage) : (s.setUsage v).usage = v := rfl
@[simp] theorem State.setUsage_record (v : Usage) : (s.setUsage v).record = s.record := rfl
@[simp] theorem State.setUsage_fb (v : Usage) : (s.setUsage v).fb = s.fb := rfl
@[simp] theorem State.setUsage_vp (v : Usage) : (s.setUsage v).vp = s.vp := rfl
@[simp] theorem State.setUsage_status (v : Usage) : (s.setUsage v).status = s.status := rfl
@[simp] theorem State.setUsage_resp (v : Usage) : (s.setUsage v).resp = s.resp := rfl
@[simp] theorem State.setUsage_hist (v : Usage) : (s.setUsage v).hist = s.hist := rfl
@[simp] theorem State.setUsage_faults (v : Usage) : (s.setUsage v).faults = s.faults := rfl
@[simp] theorem State.setUsage_cmds (v : Usage) : (s.setUsage v).cmds = s.cmds := rfl
@[simp] theorem State.setUsage_tape (v : Usage) : (s.setUsage v).tape = s.tape := rfl
@[simp] theorem State.setUsage_draws (v : Usage) : (s.setUsage v).draws = s.draws := rfl

@[simp] theorem State.setRecord_cfg (v : Memory Mode) : (s.setRecord v).cfg = s.cfg := rfl
@[simp] theorem State.setRecord_clock (v : Memory Mode) : (s.setRecord v).clock = s.clock := rfl
@[simp] theorem State.setRecord_hcounter (v : Memory Mode) : (s.setRecord v).hcounter = s.hcounter := rfl
@[simp] theorem State.setRecord_vcounter (v : Memory Mode) : (s.setRecord v).vcounter = s.vcounter := rfl
@[simp] theorem State.setRecord_frameLines (v : Memory Mode) : (s.setRecord v).frameLines = s.frameLines := rfl
@[simp] theorem State.setRecord_usage (v : Memory Mode) : (s.setRecord v).usage = s.usage := rfl
@[simp] theorem State.setRecord_record (v : Memory Mode) : (s.setRecord v).record = v := rfl
@[simp] theorem State.setRecord_fb (v : Memory Mode) : (s.setRecord v).fb = s.fb := rfl
@[simp] theorem State.setRecord_vp (v : Memory Mode) : (s.setRecord v).vp = s.vp := rfl
@[simp] theorem State.setRecord_status (v : Memory Mode) : (s.setRecord v).status = s.status := rfl
@[simp] theorem State.setRecord_resp (v : Memory Mode) : (s.setRecord v).resp = s.resp := rfl
@[simp] theorem State.setRecord_hist (v : Memory Mode) : (s.setRecord v).hist = s.hist := rfl
@[simp] theorem State.setRecord_faults (v : Memory Mode) : (s.setRecord v).faults = s.faults := rfl
@[simp] theorem State.setRecord_cmds (v : Memory Mode) : (s.setRecord v).cmds = s.cmds := rfl
@[simp] theorem State.setRecord_tape (v : Memory Mode) : (s.setRecord v).tape = s.tape := rfl
@[simp] theorem State.setRecord_draws (v : Memory Mode) : (s.setRecord v).draws = s.draws := rfl

@[simp] theorem State.setFb_cfg (v : Memory Color) : (s.setFb v).cfg = s.cfg := rfl
@[simp] theorem State.setFb_clock (v : Memory Color) : (s.setFb v).clock = s.clock := rfl
@[simp] theorem State.setFb_hcounter (v : Memory Color) : (s.setFb v).hcounter = s.hcounter := rfl
@[simp] theorem State.setFb_vcounter (v : Memory Color) : (s.setFb v).vcounter = s.vcounter := rfl
@[simp] theorem State.setFb_frameLines (v : Memory Color) : (s.setFb v).frameLines = s.frameLines := rfl
@[simp] theorem State.setFb_usage (v : Memory Color) : (s.setFb v).usage = s.usage := rfl
@[simp] theorem State.setFb_record (v : Memory Color) : (s.setFb v).record = s.record := rfl
@[simp] theorem State.setFb_fb (v : Memory Color) : (s.setFb v).fb = v := rfl
@[simp] theorem State.setFb_vp (v : Memory Color) : (s.setFb v).vp = s.vp := rfl
@[simp] theorem State.setFb_status (v : Memory Color) : (s.setFb v).status = s.status := rfl
@[simp] theorem State.setFb_resp (v : Memory Color) : (s.setFb v).resp = s.resp := rfl
@[simp] theorem State.setFb_hist (v : Memory Color) : (s.setFb v).hist = s.hist := rfl
@[simp] theorem State.setFb_faults (v : Memory Color) : (s.setFb v).faults = s.faults := rfl
@[simp] theorem State.setFb_cmds (v : Memory Color) : (s.setFb v).cmds = s.cmds := rfl
@[simp] theorem State.setFb_tape (v : Memory Color) : (s.setFb v).tape = s.tape := rfl
@[simp] theorem State.setFb_draws (v : Memory Color) : (s.setFb v).draws = s.draws := rfl

@[simp] theorem State.setVp_cfg (v : Viewport) : (s.setVp v).cfg = s.cfg := rfl
@[simp] theorem State.setVp_clock (v : Viewport) : (s.setVp v).clock = s.clock := rfl
@[simp] theorem State.setVp_hcounter (v : Viewport) : (s.setVp v).hcounter = s.hcounter := rfl
@[simp] theorem State.setVp_vcounter (v : Viewport) : (s.setVp v).vcounter = s.vcounter := rfl
@[simp] theorem State.setVp_frameLines (v : Viewport) : (s.setVp v).frameLines = s.frameLines := rfl
@[simp] theorem State.setVp_usage (v : Viewport) : (s.setVp v).usage = s.usage := rfl
@[simp] theorem State.setVp_record (v : Viewport) : (s.setVp v).record = s.record := rfl
@[simp] theorem State.setVp_fb (v : Viewport) : (s.setVp v).fb = s.fb := rfl
@[simp] theorem State.setVp_vp (v : Viewport) : (s.setVp v).vp = v := rfl
@[simp] theorem State.setVp_status (v : Viewport) : (s.setVp v).status = s.status := rfl
@[simp] theorem State.setVp_resp (v : Viewport) : (s.setVp v).resp = s.resp := rfl
@[simp] theorem State.setVp_hist (v : Viewport) : (s.setVp v).hist = s.hist := rfl
@[simp] theorem State.setVp_faults (v : Viewport) : (s.setVp v).faults = s.faults := rfl
@[simp] theorem State.setVp_cmds (v : Viewport) : (s.setVp v).cmds = s.cmds := rfl
@[simp] theorem State.setVp_tape (v : Viewport) : (s.setVp v).tape = s.tape := rfl
@[simp] theorem State.setVp_draws (v : Viewport) : (s.setVp v).draws = s.draws := rfl

@[simp] theorem State.setStatus_cfg (v : Status) : (s.setStatus v).cfg = s.cfg := rfl
@[simp] theorem State.setStatus_clock (v : Status) : (s.setStatus v).clock = s.clock := rfl
@[simp] theorem State.setStatus_hcounter (v : Status) : (s.setStatus v).hcounter = s.hcounter := rfl
@[simp] theorem State.setStatus_vcounter (v : Status) : (s.setStatus v).vcounter = s.vcounter := rfl
@[simp] theorem State.setStatus_frameLines (v : Status) : (s.setStatus v).frameLines = s.frameLines := rfl
@[simp] theorem State.setStatus_usage (v : Status) : (s.setStatus v).usage = s.usage := rfl
@[simp] theorem State.setStatus_record (v : Status) : (s.setStatus v).record = s.record := rfl
@[simp] theorem State.setStatus_fb (v : Status) : (s.setStatus v).fb = s.fb := rfl
@[simp] theorem State.setStatus_vp (v : Status) : (s.setStatus v).vp = s.vp := rfl
@[simp] theorem State.setStatus_status (v : Status) : (s.setStatus v).status = v := rfl
@[simp] theorem State.setStatus_resp (v : Status) : (s.setStatus v).resp = s.resp := rfl
@[simp] theorem State.setStatus_hist (v : Status) : (s.setStatus v).hist = s.hist := rfl
@[simp] theorem State.setStatus_faults (v : Status) : (s.setStatus v).faults = s.faults := rfl
@[simp] theorem State.setStatus_cmds (v : Status) : (s.setStatus v).cmds = s.cmds := rfl
@[simp] theorem State.setStatus_tape (v : Status) : (s.setStatus v).tape = s.tape := rfl
@[simp] theorem State.setStatus_draws (v : Status) : (s.setStatus v).draws = s.draws := rfl

@[simp] theorem State.setResp_cfg (v : Word) : (s.setResp v).cfg = s.cfg := rfl
@[simp] theorem State.setResp_clock (v : Word) : (s.setResp v).clock = s.clock := rfl
@[simp] theorem State.setResp_hcounter (v : Word) : (s.setResp v).hcounter = s.hcounter := rfl
@[simp] theorem State.setResp_vcounter (v : Word) : (s.setResp v).vcounter = s.vcounter := rfl
@[simp] theorem State.setResp_frameLines (v : Word) : (s.setResp v).frameLines = s.frameLines := rfl
@[simp] theorem State.setResp_usage (v : Word) : (s.setResp v).usage = s.usage := rfl
@[simp] theorem State.setResp_record (v : Word) : (s.setResp v).record = s.record := rfl
@[simp] theorem State.setResp_fb (v : Word) : (s.setResp v).fb = s.fb := rfl
@[simp] theorem State.setResp_vp (v : Word) : (s.setResp v).vp = s.vp := rfl
@[simp] theorem State.setResp_status (v : Word) : (s.setResp v).status = s.status := rfl
@[simp] theorem State.setResp_resp (v : Word) : (s.setResp v).resp = v := rfl
@[simp] theorem State.setResp_hist (v : Word) : (s.setResp v).hist = s.hist := rfl
@[simp] theorem State.setResp_faults (v : Word) : (s.setResp v).faults = s.faults := rfl
@[simp] theorem State.setResp_cmds (v : Word) : (s.setResp v).cmds = s.cmds := rfl
@[simp] theorem State.setResp_tape (v : Word) : (s.setResp v).tape = s.tape := rfl
@[simp] theorem State.setResp_draws (v : Word) : (s.setResp v).draws = s.draws := rfl

@[simp] theorem State.emit_cfg (v : Event) : (s.emit v).cfg = s.cfg := rfl
@[simp] theorem State.emit_clock (v : Event) : (s.emit v).clock = s.clock := rfl
@[simp] theorem State.emit_hcounter (v : Event) : (s.emit v).hcounter = s.hcounter := rfl
@[simp] theorem State.emit_vcounter (v : Event) : (s.emit v).vcounter = s.vcounter := rfl
@[simp] theorem State.emit_frameLines (v : Event) : (s.emit v).frameLines = s.frameLines := rfl
@[simp] theorem State.emit_usage (v : Event) : (s.emit v).usage = s.usage := rfl
@[simp] theorem State.emit_record (v : Event) : (s.emit v).record = s.record := rfl
@[simp] theorem State.emit_fb (v : Event) : (s.emit v).fb = s.fb := rfl
@[simp] theorem State.emit_vp (v : Event) : (s.emit v).vp = s.vp := rfl
@[simp] theorem State.emit_status (v : Event) : (s.emit v).status = s.status := rfl
@[simp] theorem State.emit_resp (v : Event) : (s.emit v).resp = s.resp := rfl
@[simp] theorem State.emit_hist (v : Event) : (s.emit v).hist = s.hist ++ [v] := rfl
@[simp] theorem State.emit_faults (v : Event) : (s.emit v).faults = s.faults := rfl
@[simp] theorem State.emit_cmds (v : Event) : (s.emit v).cmds = s.cmds := rfl
@[simp] theorem State.emit_tape (v : Event) : (s.emit v).tape = s.tape := rfl
@[simp] theorem State.emit_draws (v : Event) : (s.emit v).draws = s.draws := rfl

@[simp] theorem State.logFault_cfg (v : FaultRecord) : (s.logFault v).cfg = s.cfg := rfl
@[simp] theorem State.logFault_clock (v : FaultRecord) : (s.logFault v).clock = s.clock := rfl
@[simp] theorem State.logFault_hcounter (v : FaultRecord) : (s.logFault v).hcounter = s.hcounter := rfl
@[simp] theorem State.logFault_vcounter (v : FaultRecord) : (s.logFault v).vcounter = s.vcounter := rfl
@[simp] theorem State.logFault_frameLines (v : FaultRecord) : (s.logFault v).frameLines = s.frameLines := rfl
@[simp] theorem State.logFault_usage (v : FaultRecord) : (s.logFault v).usage = s.usage := rfl
@[simp] theorem State.logFault_record (v : FaultRecord) : (s.logFault v).record = s.record := rfl
@[simp] theorem State.logFault_fb (v : FaultRecord) : (s.logFault v).fb = s.fb := rfl
@[simp] theorem State.logFault_vp (v : FaultRecord) : (s.logFault v).vp = s.vp := rfl
@[simp] theorem State.logFault_status (v : FaultRecord) : (s.logFault v).status = s.status := rfl
@[simp] theorem State.logFault_resp (v : FaultRecord) : (s.logFault v).resp = s.resp := rfl
@[simp] theorem State.logFault_hist (v : FaultRecord) : (s.logFault v).hist = s.hist := rfl
@[simp] theorem State.logFault_faults (v : FaultRecord) : (s.logFault v).faults = s.faults ++ [v] := rfl
@[simp] theorem State.logFault_cmds (v : FaultRecord) : (s.logFault v).cmds = s.cmds := rfl
@[simp] theorem State.logFault_tape (v : FaultRecord) : (s.logFault v).tape = s.tape := rfl
@[simp] theorem State.logFault_draws (v : FaultRecord) : (s.logFault v).draws = s.draws := rfl

@[simp] theorem State.setCmds_cfg (v : List Word) : (s.setCmds v).cfg = s.cfg := rfl
@[simp] theorem State.setCmds_clock (v : List Word) : (s.setCmds v).clock = s.clock := rfl
@[simp] theorem State.setCmds_hcounter (v : List Word) : (s.setCmds v).hcounter = s.hcounter := rfl
@[simp] theorem State.setCmds_vcounter (v : List Word) : (s.setCmds v).vcounter = s.vcounter := rfl
@[simp] theorem State.setCmds_frameLines (v : List Word) : (s.setCmds v).frameLines = s.frameLines := rfl
@[simp] theorem State.setCmds_usage (v : List Word) : (s.setCmds v).usage = s.usage := rfl
@[simp] theorem State.setCmds_record (v : List Word) : (s.setCmds v).record = s.record := rfl
@[simp] theorem State.setCmds_fb (v : List Word) : (s.setCmds v).fb = s.fb := rfl
@[simp] theorem State.setCmds_vp (v : List Word) : (s.setCmds v).vp = s.vp := rfl
@[simp] theorem State.setCmds_status (v : List Word) : (s.setCmds v).status = s.status := rfl
@[simp] theorem State.setCmds_resp (v : List Word) : (s.setCmds v).resp = s.resp := rfl
@[simp] theorem State.setCmds_hist (v : List Word) : (s.setCmds v).hist = s.hist := rfl
@[simp] theorem State.setCmds_faults (v : List Word) : (s.setCmds v).faults = s.faults := rfl
@[simp] theorem State.setCmds_cmds (v : List Word) : (s.setCmds v).cmds = v := rfl
@[simp] theorem State.setCmds_tape (v : List Word) : (s.setCmds v).tape = s.tape := rfl
@[simp] theorem State.setCmds_draws (v : List Word) : (s.setCmds v).draws = s.draws := rfl

@[simp] theorem State.setTape_cfg (v : List Int) : (s.setTape v).cfg = s.cfg := rfl
@[simp] theorem State.setTape_clock (v : List Int) : (s.setTape v).clock = s.clock := rfl
@[simp] theorem State.setTape_hcounter (v : List Int) : (s.setTape v).hcounter = s.hcounter := rfl
@[simp] theorem State.setTape_vcounter (v : List Int) : (s.setTape v).vcounter = s.vcounter := rfl
@[simp] theorem State.setTape_frameLines (v : List Int) : (s.setTape v).frameLines = s.frameLines := rfl
@[simp] theorem State.setTape_usage (v : List Int) : (s.setTape v).usage = s.usage := rfl
@[simp] theorem State.setTape_record (v : List Int) : (s.setTape v).record = s.record := rfl
@[simp] theorem State.setTape_fb (v : List Int) : (s.setTape v).fb = s.fb := rfl
@[simp] theorem State.setTape_vp (v : List Int) : (s.setTape v).vp = s.vp := rfl
@[simp] theorem State.setTape_status (v : List Int) : (s.setTape v).status = s.status := rfl
@[simp] theorem State.setTape_resp (v : List Int) : (s.setTape v).resp = s.resp := rfl
@[simp] theorem State.setTape_hist (v : List Int) : (s.setTape v).hist = s.hist := rfl
@[simp] theorem State.setTape_faults (v : List Int) : (s.setTape v).faults = s.faults := rfl
@[simp] theorem State.setTape_cmds (v : List Int) : (s.setTape v).cmds = s.cmds := rfl
@[simp] theorem State.setTape_tape (v : List Int) : (s.setTape v).tape = v := rfl
@[simp] theorem State.setTape_draws (v : List Int) : (s.setTape v).draws = s.draws := rfl

@[simp] theorem State.setDraws_cfg (v : Nat) : (s.setDraws v).cfg = s.cfg := rfl
@[simp] theorem State.setDraws_clock (v : Nat) : (s.setDraws v).clock = s.clock := rfl
@[simp] theorem State.setDraws_hcounter (v : Nat) : (s.setDraws v).hcounter = s.hcounter := rfl
@[simp] theorem State.setDraws_vcounter (v : Nat) : (s.setDraws v).vcounter = s.vcounter := rfl
@[simp] theorem State.setDraws_frameLines (v : Nat) : (s.setDraws v).frameLines = s.frameLines := rfl
@[simp] theorem State.setDraws_usage (v : Nat) : (s.setDraws v).usage = s.usage := rfl
@[simp] theorem State.setDraws_record (v : Nat) : (s.setDraws v).record = s.record := rfl
@[simp] theorem State.setDraws_fb (v : Nat) : (s.setDraws v).fb = s.fb := rfl
@[simp] theorem State.setDraws_vp (v : Nat) : (s.setDraws v).vp = s.vp := rfl
@[simp] theorem State.setDraws_status (v : Nat) : (s.setDraws v).status = s.status := rfl
@[simp] theorem State.setDraws_resp (v : Nat) : (s.setDraws v).resp = s.resp := rfl
@[simp] theorem State.setDraws_hist (v : Nat) : (s.setDraws v).hist = s.hist := rfl
@[simp] theorem State.setDraws_faults (v : Nat) : (s.setDraws v).faults = s.faults := rfl
@[simp] theorem State.setDraws_cmds (v : Nat) : (s.setDraws v).cmds = s.cmds := rfl
@[simp] theorem State.setDraws_tape (v : Nat) : (s.setDraws v).tape = s.tape := rfl
@[simp] theorem State.setDraws_draws (v : Nat) : (s.setDraws v).draws = v := rfl

/-- A state is its fields. -/
theorem State.ext_fields {s t : State}
    (h_cfg : s.cfg = t.cfg)
    (h_clock : s.clock = t.clock)
    (h_hcounter : s.hcounter = t.hcounter)
    (h_vcounter : s.vcounter = t.vcounter)
    (h_frameLines : s.frameLines = t.frameLines)
    (h_usage : s.usage = t.usage)
    (h_record : s.record = t.record)
    (h_fb : s.fb = t.fb)
    (h_vp : s.vp = t.vp)
    (h_status : s.status = t.status)
    (h_resp : s.resp = t.resp)
    (h_hist : s.hist = t.hist)
    (h_faults : s.faults = t.faults)
    (h_cmds : s.cmds = t.cmds)
    (h_tape : s.tape = t.tape)
    (h_draws : s.draws = t.draws) : s = t := by
  cases s; cases t; simp_all

end Sys2Proof.Machine
end

