-- ==== Sys2Proof/Laws/Ops.lean ====
section
/-! SUPPORT. One lemma per shared operation of Machine/Ops.lean and Machine/Flags.lean: what it leaves unchanged, and
what it gives. -/

namespace Sys2Proof.Machine

/-! The frame buffer and the record. -/

/-- A frame buffer write changes the frame buffer alone (20_memory.md R51, R56). -/
@[simp] theorem State.fbWrite_frame (s : State) (y x : Nat) (c : Color) :
    (s.fbWrite y x c).cfg = s.cfg ∧ (s.fbWrite y x c).clock = s.clock ∧
    (s.fbWrite y x c).hcounter = s.hcounter ∧ (s.fbWrite y x c).vcounter = s.vcounter ∧
    (s.fbWrite y x c).frameLines = s.frameLines ∧ (s.fbWrite y x c).usage = s.usage ∧
    (s.fbWrite y x c).record = s.record ∧ (s.fbWrite y x c).vp = s.vp ∧ (s.fbWrite y x c).status = s.status ∧
    (s.fbWrite y x c).resp = s.resp ∧ (s.fbWrite y x c).hist = s.hist ∧ (s.fbWrite y x c).faults = s.faults ∧
    (s.fbWrite y x c).cmds = s.cmds ∧ (s.fbWrite y x c).tape = s.tape ∧ (s.fbWrite y x c).draws = s.draws := by
  simp [State.fbWrite]

/-- A record write changes the record alone (20_memory.md R52). -/
@[simp] theorem State.recWrite_frame (s : State) (y : Nat) (r : RecCode) :
    (s.recWrite y r).cfg = s.cfg ∧ (s.recWrite y r).clock = s.clock ∧ (s.recWrite y r).hcounter = s.hcounter ∧
    (s.recWrite y r).vcounter = s.vcounter ∧ (s.recWrite y r).frameLines = s.frameLines ∧
    (s.recWrite y r).usage = s.usage ∧ (s.recWrite y r).fb = s.fb ∧ (s.recWrite y r).vp = s.vp ∧
    (s.recWrite y r).status = s.status ∧ (s.recWrite y r).resp = s.resp ∧ (s.recWrite y r).hist = s.hist ∧
    (s.recWrite y r).faults = s.faults ∧ (s.recWrite y r).cmds = s.cmds ∧ (s.recWrite y r).tape = s.tape ∧
    (s.recWrite y r).draws = s.draws := by
  cases r <;> simp [State.recWrite]

/-- Clearing the record changes the record alone. -/
@[simp] theorem State.clearRecord_frame (s : State) :
    s.clearRecord.cfg = s.cfg ∧ s.clearRecord.clock = s.clock ∧ s.clearRecord.hcounter = s.hcounter ∧
    s.clearRecord.vcounter = s.vcounter ∧ s.clearRecord.frameLines = s.frameLines ∧
    s.clearRecord.usage = s.usage ∧ s.clearRecord.fb = s.fb ∧ s.clearRecord.vp = s.vp ∧
    s.clearRecord.status = s.status ∧ s.clearRecord.resp = s.resp ∧ s.clearRecord.hist = s.hist ∧
    s.clearRecord.faults = s.faults ∧ s.clearRecord.cmds = s.cmds ∧ s.clearRecord.tape = s.tape ∧
    s.clearRecord.draws = s.draws := by
  simp [State.clearRecord]

/-- Two cells share an index only if they are the same cell. -/
theorem fbKey_inj {y x y' x' : Nat} (hx : x < 65536) (hx' : x' < 65536) :
    fbKey y x = fbKey y' x' ↔ y = y' ∧ x = x' := by
  unfold fbKey; omega

/-- What a cell reads as depends on the listed cells and the configuration alone. -/
theorem State.fbRead_congr {s t : State} (hf : s.fb = t.fb) (hc : s.cfg = t.cfg) (y x : Nat) :
    s.fbRead y x = t.fbRead y x := by
  simp [State.fbRead, hf, hc]

/-- What a row of the record reads as depends on the listed rows alone. -/
theorem State.recRead_congr {s t : State} (h : s.record = t.record) (y : Nat) : s.recRead y = t.recRead y := by
  simp [State.recRead, h]

@[simp] theorem State.fbRead_fbWrite_same (s : State) (y x : Nat) (c : Color) :
    (s.fbWrite y x c).fbRead y x = c := by
  simp [State.fbRead, State.fbWrite]

theorem State.fbRead_fbWrite_ne (s : State) {y x y' x' : Nat} (c : Color) (hx : x < 65536) (hx' : x' < 65536)
    (h : ¬(y' = y ∧ x' = x)) : (s.fbWrite y x c).fbRead y' x' = s.fbRead y' x' := by
  have hk : fbKey y' x' ≠ fbKey y x := fun e => h ((fbKey_inj hx' hx).1 e)
  simp [State.fbRead, State.fbWrite, Memory.lookup_insert_ne _ _ hk]

/-- A read after a write, either way. -/
theorem State.fbRead_fbWrite (s : State) {y x y' x' : Nat} (c : Color) (hx : x < 65536) (hx' : x' < 65536) :
    (s.fbWrite y x c).fbRead y' x' = if y' = y ∧ x' = x then c else s.fbRead y' x' := by
  split
  · next h => rw [h.1, h.2, State.fbRead_fbWrite_same]
  · next h => exact State.fbRead_fbWrite_ne s c hx hx' h

/-- A record read after a record write. -/
theorem State.recRead_recWrite (s : State) (y y' : Nat) (r : RecCode) :
    (s.recWrite y r).recRead y' = if y' = y then r else s.recRead y' := by
  by_cases h : y' = y
  · subst h
    cases r <;> simp [State.recRead, State.recWrite]
  · cases r <;> simp [State.recRead, State.recWrite, h, Memory.lookup_insert_ne, Memory.lookup_erase_ne]

@[simp] theorem State.recRead_clearRecord (s : State) (y : Nat) : s.clearRecord.recRead y = .unrec := by
  simp [State.recRead, State.clearRecord]

/-- A color is below `2 ^ COLOR_BITS` (44_collaborator_interface.md R199). -/
theorem cutColor_lt (c : Cfg) (n : Int) : (cutColor c n).toNat < 2 ^ c.colorBits := by
  have hpos : (0 : Int) < ((2 ^ c.colorBits : Nat) : Int) := by exact_mod_cast Nat.two_pow_pos _
  have h0 := Int.emod_nonneg n (ne_of_gt hpos)
  have h1 := Int.emod_lt_of_pos n hpos
  have : (n % ((2 ^ c.colorBits : Nat) : Int)).toNat < 2 ^ c.colorBits := by omega
  exact Nat.lt_of_le_of_lt (by simpa [cutColor, BitVec.toNat_ofNat] using Nat.mod_le _ _) this

/-- A palette index is below `2 ^ INDEX_BITS` (44_collaborator_interface.md R198). -/
theorem cutIndex_lt (c : Cfg) (n : Int) : (cutIndex c n).toNat < 2 ^ c.indexBits := by
  have hpos : (0 : Int) < ((2 ^ c.indexBits : Nat) : Int) := by exact_mod_cast Nat.two_pow_pos _
  have h0 := Int.emod_nonneg n (ne_of_gt hpos)
  have h1 := Int.emod_lt_of_pos n hpos
  have : (n % ((2 ^ c.indexBits : Nat) : Int)).toNat < 2 ^ c.indexBits := by omega
  exact Nat.lt_of_le_of_lt (by simpa [cutIndex, BitVec.toNat_ofNat] using Nat.mod_le _ _) this

/-- Every color of the type is some answer's. -/
theorem cutColor_surjective {c : Cfg} {v : Color} (h : v.toNat < 2 ^ c.colorBits) : cutColor c v.toNat = v := by
  have : ((v.toNat : Int) % ((2 ^ c.colorBits : Nat) : Int)).toNat = v.toNat := by
    rw [Int.emod_eq_of_lt (by omega) (by exact_mod_cast h)]
    simp
  unfold cutColor
  rw [this]
  simp

/-! Draws. -/

/-- A draw changes the oracle's own fields alone. -/
@[simp] theorem State.draw_frame (s : State) :
    s.draw.2.cfg = s.cfg ∧ s.draw.2.clock = s.clock ∧ s.draw.2.hcounter = s.hcounter ∧
    s.draw.2.vcounter = s.vcounter ∧ s.draw.2.frameLines = s.frameLines ∧ s.draw.2.usage = s.usage ∧
    s.draw.2.record = s.record ∧ s.draw.2.fb = s.fb ∧ s.draw.2.vp = s.vp ∧ s.draw.2.status = s.status ∧
    s.draw.2.resp = s.resp ∧ s.draw.2.hist = s.hist ∧ s.draw.2.faults = s.faults ∧ s.draw.2.cmds = s.cmds := by
  unfold State.draw; split <;> simp

/-- A scripted draw gives the tape's head. -/
theorem State.draw_of_tape {s : State} {a : Int} {rest : List Int} (h : s.tape = a :: rest) :
    s.draw = (a, s.setTape rest) := by
  simp [State.draw, h]

/-- What a draw gives and leaves depends on the oracle's own fields alone. -/
theorem State.draw_congr {s t : State} (ht : s.tape = t.tape) (hd : s.draws = t.draws) :
    s.draw.1 = t.draw.1 ∧ s.draw.2.tape = t.draw.2.tape ∧ s.draw.2.draws = t.draw.2.draws := by
  unfold State.draw
  rw [← ht]
  cases hs : s.tape with
  | nil => simp [hd, ← ht, hs]
  | cons a rest => simp [hd]

/-! Status and faults. -/

/-- Setting FR changes STATUS alone. -/
@[simp] theorem State.setFr_frame (s : State) (b : Bool) :
    (s.setFr b).cfg = s.cfg ∧ (s.setFr b).clock = s.clock ∧ (s.setFr b).hcounter = s.hcounter ∧
    (s.setFr b).vcounter = s.vcounter ∧ (s.setFr b).frameLines = s.frameLines ∧ (s.setFr b).usage = s.usage ∧
    (s.setFr b).record = s.record ∧ (s.setFr b).fb = s.fb ∧ (s.setFr b).vp = s.vp ∧ (s.setFr b).resp = s.resp ∧
    (s.setFr b).hist = s.hist ∧ (s.setFr b).faults = s.faults ∧ (s.setFr b).cmds = s.cmds ∧
    (s.setFr b).tape = s.tape ∧ (s.setFr b).draws = s.draws := by
  simp [State.setFr]

@[simp] theorem State.setFr_status (s : State) (b : Bool) : (s.setFr b).status = { s.status with fr := b } := rfl

/-- Setting DIAG changes STATUS alone. -/
@[simp] theorem State.setDiag_frame (s : State) (v : BitVec 16) :
    (s.setDiag v).cfg = s.cfg ∧ (s.setDiag v).clock = s.clock ∧ (s.setDiag v).hcounter = s.hcounter ∧
    (s.setDiag v).vcounter = s.vcounter ∧ (s.setDiag v).frameLines = s.frameLines ∧
    (s.setDiag v).usage = s.usage ∧ (s.setDiag v).record = s.record ∧ (s.setDiag v).fb = s.fb ∧
    (s.setDiag v).vp = s.vp ∧ (s.setDiag v).resp = s.resp ∧ (s.setDiag v).hist = s.hist ∧
    (s.setDiag v).faults = s.faults ∧ (s.setDiag v).cmds = s.cmds ∧ (s.setDiag v).tape = s.tape ∧
    (s.setDiag v).draws = s.draws := by
  simp [State.setDiag]

@[simp] theorem State.setDiag_status (s : State) (v : BitVec 16) :
    (s.setDiag v).status = { s.status with diag := v } := rfl

/-- A fatal fault changes STATUS and the fault log alone (60_exceptions.md R211). -/
@[simp] theorem State.raiseFatal_frame (s : State) (k : FatalCause) (info : Int) :
    (s.raiseFatal k info).cfg = s.cfg ∧ (s.raiseFatal k info).clock = s.clock ∧
    (s.raiseFatal k info).hcounter = s.hcounter ∧ (s.raiseFatal k info).vcounter = s.vcounter ∧
    (s.raiseFatal k info).frameLines = s.frameLines ∧ (s.raiseFatal k info).usage = s.usage ∧
    (s.raiseFatal k info).record = s.record ∧ (s.raiseFatal k info).fb = s.fb ∧
    (s.raiseFatal k info).vp = s.vp ∧ (s.raiseFatal k info).resp = s.resp ∧
    (s.raiseFatal k info).hist = s.hist ∧ (s.raiseFatal k info).cmds = s.cmds ∧
    (s.raiseFatal k info).tape = s.tape ∧ (s.raiseFatal k info).draws = s.draws := by
  simp [State.raiseFatal]

@[simp] theorem State.raiseFatal_status (s : State) (k : FatalCause) (info : Int) :
    (s.raiseFatal k info).status = { s.status with
      fatal := true, cause := if s.status.cause = 0 then k.code else s.status.cause } := rfl

@[simp] theorem State.raiseFatal_faults (s : State) (k : FatalCause) (info : Int) :
    (s.raiseFatal k info).faults = s.faults ++ [⟨.fatal, k.code, info⟩] := rfl

/-- An illegal word changes STATUS and the fault log alone (60_exceptions.md R214). -/
@[simp] theorem State.raiseIllegal_frame (s : State) (w : Word) :
    (s.raiseIllegal w).cfg = s.cfg ∧ (s.raiseIllegal w).clock = s.clock ∧
    (s.raiseIllegal w).hcounter = s.hcounter ∧ (s.raiseIllegal w).vcounter = s.vcounter ∧
    (s.raiseIllegal w).frameLines = s.frameLines ∧ (s.raiseIllegal w).usage = s.usage ∧
    (s.raiseIllegal w).record = s.record ∧ (s.raiseIllegal w).fb = s.fb ∧ (s.raiseIllegal w).vp = s.vp ∧
    (s.raiseIllegal w).resp = s.resp ∧ (s.raiseIllegal w).hist = s.hist ∧ (s.raiseIllegal w).cmds = s.cmds ∧
    (s.raiseIllegal w).tape = s.tape ∧ (s.raiseIllegal w).draws = s.draws := by
  simp [State.raiseIllegal]

@[simp] theorem State.raiseIllegal_status (s : State) (w : Word) :
    (s.raiseIllegal w).status = { s.status with ill := true } := rfl

@[simp] theorem State.raiseIllegal_faults (s : State) (w : Word) :
    (s.raiseIllegal w).faults = s.faults ++ [⟨.illegal, 0, w.toNat⟩] := rfl

/-- A range fault changes STATUS, the fault log and the response alone (60_exceptions.md R215). -/
@[simp] theorem State.raiseRange_frame (s : State) (w : Word) :
    (s.raiseRange w).cfg = s.cfg ∧ (s.raiseRange w).clock = s.clock ∧ (s.raiseRange w).hcounter = s.hcounter ∧
    (s.raiseRange w).vcounter = s.vcounter ∧ (s.raiseRange w).frameLines = s.frameLines ∧
    (s.raiseRange w).usage = s.usage ∧ (s.raiseRange w).record = s.record ∧ (s.raiseRange w).fb = s.fb ∧
    (s.raiseRange w).vp = s.vp ∧ (s.raiseRange w).hist = s.hist ∧ (s.raiseRange w).cmds = s.cmds ∧
    (s.raiseRange w).tape = s.tape ∧ (s.raiseRange w).draws = s.draws := by
  simp [State.raiseRange]

@[simp] theorem State.raiseRange_status (s : State) (w : Word) :
    (s.raiseRange w).status = { s.status with range := true } := rfl

@[simp] theorem State.raiseRange_faults (s : State) (w : Word) :
    (s.raiseRange w).faults = s.faults ++ [⟨.range, 0, w.toNat⟩] := rfl

@[simp] theorem State.raiseRange_resp (s : State) (w : Word) : (s.raiseRange w).resp = 0 := rfl

/-! Usage flags. -/

@[simp] theorem Usage.get_none (m : Mode) : Usage.none.get m = false := by cases m <;> rfl

/-- Marking a mode sets its flag and leaves the others (41_compose.md R137). -/
theorem Usage.get_mark (u : Usage) (m k : Mode) : (u.mark m).get k = (u.get k || decide (k = m)) := by
  cases m <;> cases k <;> simp [Usage.get, Usage.mark]

/-- The sole mode is the one whose flag is set, when exactly one is. -/
theorem Usage.sole_eq_some {u : Usage} {m : Mode} :
    u.sole = some m ↔ u.get m = true ∧ ∀ k, u.get k = true → k = m := by
  obtain ⟨a, b, c⟩ := u
  revert a b c m
  have key : ∀ (m : Mode) (a b c : Bool), (Usage.sole ⟨a, b, c⟩ = some m ↔
      Usage.get ⟨a, b, c⟩ m = true ∧ (Usage.get ⟨a, b, c⟩ .w1 = true → Mode.w1 = m) ∧
      (Usage.get ⟨a, b, c⟩ .w2 = true → Mode.w2 = m) ∧ (Usage.get ⟨a, b, c⟩ .w3 = true → Mode.w3 = m)) := by
    intro m a b c
    cases m <;> cases a <;> cases b <;> cases c <;> decide
  intro m a b c
  rw [key]
  exact ⟨fun h => ⟨h.1, fun k => by cases k <;> [exact h.2.1; exact h.2.2.1; exact h.2.2.2]⟩,
    fun h => ⟨h.1, h.2 _, h.2 _, h.2 _⟩⟩

/-- There is a sole mode exactly when one flag is set (42_normalize.md R150). -/
theorem Usage.sole_isSome (u : Usage) : u.sole.isSome = true ↔ u.count = 1 := by
  unfold Usage.sole; split <;> simp_all

/-! Flow. -/

@[simp] theorem Flow.andThen_go (s : State) (f : State → Flow) : (Flow.go s).andThen f = f s := rfl
@[simp] theorem Flow.andThen_stop (s : State) (f : State → Flow) : (Flow.stop s).andThen f = .stop s := rfl
@[simp] theorem Flow.state_go (s : State) : (Flow.go s).state = s := rfl
@[simp] theorem Flow.state_stop (s : State) : (Flow.stop s).state = s := rfl

/-- A sequence goes on exactly when both of its parts do. -/
theorem Flow.andThen_eq_go {f : Flow} {g : State → Flow} {t : State} :
    f.andThen g = .go t ↔ ∃ s, f = .go s ∧ g s = .go t := by
  cases f <;> simp

/-- A sequence stops in its first part or in its second. -/
theorem Flow.andThen_eq_stop {f : Flow} {g : State → Flow} {t : State} :
    f.andThen g = .stop t ↔ f = .stop t ∨ ∃ s, f = .go s ∧ g s = .stop t := by
  cases f <;> simp

end Sys2Proof.Machine
end

