-- ==== Sys2Proof/Laws/Collaborators.lean ====
section
/-! SUPPORT. The collaborator calls and queries: each changes the history, and a query the oracle's own fields, and
nothing else (44_collaborator_interface.md R190 to R201). -/

namespace Sys2Proof.Machine

/-- A chip hook changes the history alone. -/
@[simp] theorem State.callChips_frame (s : State) (hook : Chip → Event) :
    (s.callChips hook).cfg = s.cfg ∧ (s.callChips hook).clock = s.clock ∧
    (s.callChips hook).hcounter = s.hcounter ∧ (s.callChips hook).vcounter = s.vcounter ∧
    (s.callChips hook).frameLines = s.frameLines ∧ (s.callChips hook).usage = s.usage ∧
    (s.callChips hook).record = s.record ∧ (s.callChips hook).fb = s.fb ∧ (s.callChips hook).vp = s.vp ∧
    (s.callChips hook).status = s.status ∧ (s.callChips hook).resp = s.resp ∧
    (s.callChips hook).faults = s.faults ∧ (s.callChips hook).cmds = s.cmds ∧
    (s.callChips hook).tape = s.tape ∧ (s.callChips hook).draws = s.draws := by
  unfold State.callChips; split <;> simp

/-- A DMA call changes the history alone. -/
@[simp] theorem State.callDma_frame (s : State) (n : Nat) :
    (s.callDma n).cfg = s.cfg ∧ (s.callDma n).clock = s.clock ∧ (s.callDma n).hcounter = s.hcounter ∧
    (s.callDma n).vcounter = s.vcounter ∧ (s.callDma n).frameLines = s.frameLines ∧
    (s.callDma n).usage = s.usage ∧ (s.callDma n).record = s.record ∧ (s.callDma n).fb = s.fb ∧
    (s.callDma n).vp = s.vp ∧ (s.callDma n).status = s.status ∧ (s.callDma n).resp = s.resp ∧
    (s.callDma n).faults = s.faults ∧ (s.callDma n).cmds = s.cmds ∧ (s.callDma n).tape = s.tape ∧
    (s.callDma n).draws = s.draws := by
  simp [State.callDma]

/-- The combiner pass changes the history alone. -/
@[simp] theorem State.callRender_frame (s : State) :
    s.callRender.cfg = s.cfg ∧ s.callRender.clock = s.clock ∧ s.callRender.hcounter = s.hcounter ∧
    s.callRender.vcounter = s.vcounter ∧ s.callRender.frameLines = s.frameLines ∧
    s.callRender.usage = s.usage ∧ s.callRender.record = s.record ∧ s.callRender.fb = s.fb ∧
    s.callRender.vp = s.vp ∧ s.callRender.status = s.status ∧ s.callRender.resp = s.resp ∧
    s.callRender.faults = s.faults ∧ s.callRender.cmds = s.cmds ∧ s.callRender.tape = s.tape ∧
    s.callRender.draws = s.draws := by
  unfold State.callRender; split <;> simp

/-- The power calls changes the history alone. -/
@[simp] theorem State.callPower_frame (s : State) :
    s.callPower.cfg = s.cfg ∧ s.callPower.clock = s.clock ∧ s.callPower.hcounter = s.hcounter ∧
    s.callPower.vcounter = s.vcounter ∧ s.callPower.frameLines = s.frameLines ∧ s.callPower.usage = s.usage ∧
    s.callPower.record = s.record ∧ s.callPower.fb = s.fb ∧ s.callPower.vp = s.vp ∧
    s.callPower.status = s.status ∧ s.callPower.resp = s.resp ∧ s.callPower.faults = s.faults ∧
    s.callPower.cmds = s.cmds ∧ s.callPower.tape = s.tape ∧ s.callPower.draws = s.draws := by
  simp only [State.callPower]; split <;> simp

/-- The resolution query changes the history and the oracle's own fields alone. -/
@[simp] theorem State.queryWidth_frame (s : State) :
    s.queryWidth.2.cfg = s.cfg ∧ s.queryWidth.2.clock = s.clock ∧ s.queryWidth.2.hcounter = s.hcounter ∧
    s.queryWidth.2.vcounter = s.vcounter ∧ s.queryWidth.2.frameLines = s.frameLines ∧
    s.queryWidth.2.usage = s.usage ∧ s.queryWidth.2.record = s.record ∧ s.queryWidth.2.fb = s.fb ∧
    s.queryWidth.2.vp = s.vp ∧ s.queryWidth.2.status = s.status ∧ s.queryWidth.2.resp = s.resp ∧
    s.queryWidth.2.faults = s.faults ∧ s.queryWidth.2.cmds = s.cmds := by
  simp [State.queryWidth]

/-- The grayscale sample changes the history and the oracle's own fields alone. -/
@[simp] theorem State.queryGray_frame (s : State) :
    s.queryGray.2.cfg = s.cfg ∧ s.queryGray.2.clock = s.clock ∧ s.queryGray.2.hcounter = s.hcounter ∧
    s.queryGray.2.vcounter = s.vcounter ∧ s.queryGray.2.frameLines = s.frameLines ∧
    s.queryGray.2.usage = s.usage ∧ s.queryGray.2.record = s.record ∧ s.queryGray.2.fb = s.fb ∧
    s.queryGray.2.vp = s.vp ∧ s.queryGray.2.status = s.status ∧ s.queryGray.2.resp = s.resp ∧
    s.queryGray.2.faults = s.faults ∧ s.queryGray.2.cmds = s.cmds := by
  simp [State.queryGray]

/-- An index query changes the history and the oracle's own fields alone. -/
@[simp] theorem State.queryIndex_frame (s : State) (x : Nat) :
    (s.queryIndex x).2.cfg = s.cfg ∧ (s.queryIndex x).2.clock = s.clock ∧
    (s.queryIndex x).2.hcounter = s.hcounter ∧ (s.queryIndex x).2.vcounter = s.vcounter ∧
    (s.queryIndex x).2.frameLines = s.frameLines ∧ (s.queryIndex x).2.usage = s.usage ∧
    (s.queryIndex x).2.record = s.record ∧ (s.queryIndex x).2.fb = s.fb ∧ (s.queryIndex x).2.vp = s.vp ∧
    (s.queryIndex x).2.status = s.status ∧ (s.queryIndex x).2.resp = s.resp ∧
    (s.queryIndex x).2.faults = s.faults ∧ (s.queryIndex x).2.cmds = s.cmds := by
  simp [State.queryIndex]

/-- A color query changes the history and the oracle's own fields alone. -/
@[simp] theorem State.queryResolve_frame (s : State) (g : Bool) (i : Index) :
    (s.queryResolve g i).2.cfg = s.cfg ∧ (s.queryResolve g i).2.clock = s.clock ∧
    (s.queryResolve g i).2.hcounter = s.hcounter ∧ (s.queryResolve g i).2.vcounter = s.vcounter ∧
    (s.queryResolve g i).2.frameLines = s.frameLines ∧ (s.queryResolve g i).2.usage = s.usage ∧
    (s.queryResolve g i).2.record = s.record ∧ (s.queryResolve g i).2.fb = s.fb ∧
    (s.queryResolve g i).2.vp = s.vp ∧ (s.queryResolve g i).2.status = s.status ∧
    (s.queryResolve g i).2.resp = s.resp ∧ (s.queryResolve g i).2.faults = s.faults ∧
    (s.queryResolve g i).2.cmds = s.cmds := by
  simp [State.queryResolve]

/-- The extra-line query changes the history and the oracle's own fields alone. -/
@[simp] theorem State.queryExtra_frame (s : State) :
    s.queryExtra.2.cfg = s.cfg ∧ s.queryExtra.2.clock = s.clock ∧ s.queryExtra.2.hcounter = s.hcounter ∧
    s.queryExtra.2.vcounter = s.vcounter ∧ s.queryExtra.2.frameLines = s.frameLines ∧
    s.queryExtra.2.usage = s.usage ∧ s.queryExtra.2.record = s.record ∧ s.queryExtra.2.fb = s.fb ∧
    s.queryExtra.2.vp = s.vp ∧ s.queryExtra.2.status = s.status ∧ s.queryExtra.2.resp = s.resp ∧
    s.queryExtra.2.faults = s.faults ∧ s.queryExtra.2.cmds = s.cmds := by
  simp [State.queryExtra]

theorem State.callChips_hist (s : State) (hook : Chip → Event) :
    (s.callChips hook).hist = s.hist ++ chipEvents s.cfg hook := by
  unfold State.callChips chipEvents; split <;> simp

@[simp] theorem State.callDma_hist (s : State) (n : Nat) : (s.callDma n).hist = s.hist ++ [.dma n] := rfl

theorem State.callRender_hist (s : State) :
    s.callRender.hist = s.hist ++ (if s.cfg.dual then [.render] else []) := by
  unfold State.callRender; split <;> simp

@[simp] theorem State.queryWidth_hist (s : State) : s.queryWidth.2.hist = s.hist ++ [.widthq s.queryWidth.1] := by
  simp [State.queryWidth]

@[simp] theorem State.queryGray_hist (s : State) : s.queryGray.2.hist = s.hist ++ [.grayq s.queryGray.1] := by
  simp [State.queryGray]

@[simp] theorem State.queryIndex_hist (s : State) (x : Nat) :
    (s.queryIndex x).2.hist = s.hist ++ [.index (indexSource s.cfg) x (s.queryIndex x).1] := by
  simp [State.queryIndex]

@[simp] theorem State.queryResolve_hist (s : State) (g : Bool) (i : Index) :
    (s.queryResolve g i).2.hist = s.hist ++ [.resolve g i (s.queryResolve g i).1] := by
  simp [State.queryResolve]

@[simp] theorem State.queryExtra_hist (s : State) : s.queryExtra.2.hist = s.hist ++ [.extra s.queryExtra.1] := by
  simp [State.queryExtra]

/-- An index query answers an index below `2 ^ INDEX_BITS` (44_collaborator_interface.md R198). -/
theorem State.queryIndex_lt (s : State) (x : Nat) : (s.queryIndex x).1.toNat < 2 ^ s.cfg.indexBits := by
  simpa [State.queryIndex] using cutIndex_lt s.cfg s.draw.1

/-- A color query answers a color below `2 ^ COLOR_BITS` (44_collaborator_interface.md R199). -/
theorem State.queryResolve_lt (s : State) (g : Bool) (i : Index) :
    (s.queryResolve g i).1.toNat < 2 ^ s.cfg.colorBits := by
  simpa [State.queryResolve] using cutColor_lt s.cfg s.draw.1

/-- A write inside the buffer of a color of COLOR_BITS bits keeps the bounds of the listed cells (20_memory.md R51). -/
theorem CellsInRange.fbWrite {s : State} (h : CellsInRange s) {y x : Nat} {v : Color} (hy : y < s.cfg.bufH)
    (hx : x < s.cfg.bufW) (hw : s.cfg.bufW ≤ 65535) (hv : v.toNat < 2 ^ s.cfg.colorBits) :
    CellsInRange (s.fbWrite y x v) := by
  intro e he
  simp only [State.fbWrite, State.setFb_fb, State.setFb_cfg] at he ⊢
  rcases Memory.mem_insert he with rfl | he
  · unfold fbKey
    refine ⟨?_, ?_, hv⟩ <;> simp only <;> omega
  · exact h e he

/-- What a cell reads as is a color of COLOR_BITS bits (10_state.md R27). -/
theorem State.fbRead_lt {s : State} (h : CellsInRange s) (y x : Nat) : (s.fbRead y x).toNat < 2 ^ s.cfg.colorBits := by
  unfold State.fbRead
  cases hl : Memory.lookup s.fb (fbKey y x) with
  | none => exact cutColor_lt _ _
  | some v => exact (h _ (Memory.mem_of_lookup hl)).2.2

end Sys2Proof.Machine
end

