-- ==== Sys2Proof/Laws/Params.lean ====
section
/-! SUPPORT. What a well-formed configuration (00_scope.md R8) gives: the bounds of its fields and the exactness of the
replication factors (R9). -/

namespace Sys2Proof

/-- A well-formed configuration passes every check. -/
theorem Cfg.Ok.passes {c : Cfg} (h : c.Ok) (k : CfgCheck) : c.passes k = true := by
  have := List.find?_eq_none.mp h k (by cases k <;> simp [Cfg.checks])
  simpa using this

/-- A configuration that passes every check is well formed. -/
theorem Cfg.ok_of_passes {c : Cfg} (h : ∀ k, c.passes k = true) : c.Ok :=
  List.find?_eq_none.mpr (fun k _ => by simp [h k])

/-- CFG_LINE and CFG_PRE. -/
theorem Cfg.Ok.line {c : Cfg} (h : c.Ok) : 1 ≤ c.lineCycles ∧ c.lineCycles ≤ 65535 ∧ c.preCycles ≤ c.lineCycles := by
  have h1 := h.passes .cfgLine
  have h2 := h.passes .cfgPre
  simp only [Cfg.passes, decide_eq_true_eq] at h1 h2
  exact ⟨h1.1, h1.2, h2⟩

/-- CFG_LINES. -/
theorem Cfg.Ok.lines {c : Cfg} (h : c.Ok) : 1 ≤ c.nominalLines ∧ c.nominalLines ≤ c.bufH ∧ c.bufH ≤ 65535 := by
  simpa only [Cfg.passes, decide_eq_true_eq] using h.passes .cfgLines

/-- CFG_BAND. -/
theorem Cfg.Ok.band {c : Cfg} (h : c.Ok) : 1 ≤ c.activeHeight ∧ c.activeStart + c.activeHeight ≤ c.bufH := by
  simpa only [Cfg.passes, decide_eq_true_eq] using h.passes .cfgBand

/-- A band row lies inside the buffer (20_memory.md R51). -/
theorem Cfg.Ok.inBand_lt {c : Cfg} (h : c.Ok) {y : Nat} (hy : c.InBand y) : y < c.bufH := by
  have := h.band
  have := hy.2
  unfold Cfg.activeEnd at this
  omega

/-- CFG_FIT. -/
theorem Cfg.Ok.fit {c : Cfg} (h : c.Ok) : c.canonicalWidth ≤ c.bufW ∧ c.bufW ≤ 65535 := by
  simpa only [Cfg.passes, decide_eq_true_eq] using h.passes .cfgFit

/-- Every width is at least 1 (CFG_WIDTHS). -/
theorem Cfg.Ok.width_pos {c : Cfg} (h : c.Ok) (m : Mode) : 1 ≤ c.width m := by
  have := h.passes .cfgWidths
  simp only [Cfg.passes, decide_eq_true_eq] at this
  cases m <;> simp only [Cfg.width] <;> omega

/-- The canonical width is the largest (R9). -/
theorem Cfg.width_le_canonical (c : Cfg) (m : Mode) : c.width m ≤ c.canonicalWidth := by
  unfold Cfg.canonicalWidth
  cases m <;> simp only [Cfg.width] <;> omega

/-- Every width divides the canonical width: the factor is exact (CFG_EXACT, R9). -/
theorem Cfg.Ok.width_mul_factor {c : Cfg} (h : c.Ok) (m : Mode) : c.width m * c.factor m = c.canonicalWidth := by
  have := h.passes .cfgExact
  simp only [Cfg.passes, decide_eq_true_eq] at this
  refine Nat.mul_div_cancel' (Nat.dvd_of_mod_eq_zero ?_)
  cases m <;> simp only [Cfg.width] <;> omega

/-- Every factor is at least 1. -/
theorem Cfg.Ok.factor_pos {c : Cfg} (h : c.Ok) (m : Mode) : 1 ≤ c.factor m :=
  Nat.div_pos (c.width_le_canonical m) (h.width_pos m)

/-- CFG_COLOR. -/
theorem Cfg.Ok.color {c : Cfg} (h : c.Ok) : c.colorBits ≤ 32 := by
  have := h.passes .cfgColor
  simp only [Cfg.passes, decide_eq_true_eq] at this
  omega

end Sys2Proof
end

