-- ==== Sys2Proof/Laws/Compose.lean ====
section
/-! SUPPORT. What the Composer does (41_compose.md): its events, the cells it writes, what it leaves unchanged. -/

namespace Sys2Proof.Machine

/-- One column changes the frame buffer, the history and the oracle's own fields alone. -/
@[simp] theorem composePixel_frame (y : Nat) (g : Bool) (x : Nat) (s : State) :
    (composePixel y g x s).cfg = s.cfg ∧ (composePixel y g x s).clock = s.clock ∧
    (composePixel y g x s).hcounter = s.hcounter ∧ (composePixel y g x s).vcounter = s.vcounter ∧
    (composePixel y g x s).frameLines = s.frameLines ∧ (composePixel y g x s).usage = s.usage ∧
    (composePixel y g x s).record = s.record ∧ (composePixel y g x s).vp = s.vp ∧
    (composePixel y g x s).status = s.status ∧ (composePixel y g x s).resp = s.resp ∧
    (composePixel y g x s).faults = s.faults ∧ (composePixel y g x s).cmds = s.cmds := by
  simp [composePixel]

/-- The columns of a line change the frame buffer, the history and the oracle's own fields alone. -/
@[simp] theorem composeColumns_frame (y : Nat) (g : Bool) (x n : Nat) (s : State) :
    (composeColumns y g x n s).cfg = s.cfg ∧ (composeColumns y g x n s).clock = s.clock ∧
    (composeColumns y g x n s).hcounter = s.hcounter ∧ (composeColumns y g x n s).vcounter = s.vcounter ∧
    (composeColumns y g x n s).frameLines = s.frameLines ∧ (composeColumns y g x n s).usage = s.usage ∧
    (composeColumns y g x n s).record = s.record ∧ (composeColumns y g x n s).vp = s.vp ∧
    (composeColumns y g x n s).status = s.status ∧ (composeColumns y g x n s).resp = s.resp ∧
    (composeColumns y g x n s).faults = s.faults ∧ (composeColumns y g x n s).cmds = s.cmds := by
  induction n generalizing x s with
  | zero => simp [composeColumns]
  | succ n ih => simp [composeColumns, ih]

/-- Composing a row changes the row, its record entry, one usage flag, the history and the oracle's own fields alone
(41_compose.md R130). -/
@[simp] theorem composeRow_frame (y : Nat) (s : State) :
    (composeRow y s).cfg = s.cfg ∧ (composeRow y s).clock = s.clock ∧ (composeRow y s).hcounter = s.hcounter ∧
    (composeRow y s).vcounter = s.vcounter ∧ (composeRow y s).frameLines = s.frameLines ∧
    (composeRow y s).vp = s.vp ∧ (composeRow y s).status = s.status ∧ (composeRow y s).resp = s.resp ∧
    (composeRow y s).faults = s.faults ∧ (composeRow y s).cmds = s.cmds := by
  simp [composeRow]

/-- One column: an index, its color, and the cell that holds it (41_compose.md R134, R135). -/
theorem composePixel_spec (y : Nat) (g : Bool) (x : Nat) (s : State) :
    ∃ i v, (i.toNat < 2 ^ s.cfg.indexBits ∧ v.toNat < 2 ^ s.cfg.colorBits) ∧
      (composePixel y g x s).hist = s.hist ++ pixelEvents s.cfg g x [(i, v)] ∧
      (composePixel y g x s).fb = Memory.insert s.fb (fbKey y x) v := by
  refine ⟨(s.queryIndex x).1, ((s.queryIndex x).2.queryResolve g (s.queryIndex x).1).1, ?_, ?_, ?_⟩
  · refine ⟨State.queryIndex_lt s x, ?_⟩
    simpa using State.queryResolve_lt (s.queryIndex x).2 g (s.queryIndex x).1
  · simp [composePixel, pixelEvents]
  · simp [composePixel, State.fbWrite]

/-- The events of a column and of those after it. -/
theorem pixelEvents_cons (c : Cfg) (g : Bool) (x : Nat) (p : Index × Color) (rest : List (Index × Color)) :
    pixelEvents c g x (p :: rest) = pixelEvents c g x [p] ++ pixelEvents c g (x + 1) rest := by
  simp [pixelEvents]

theorem pixelEvents_length (c : Cfg) (g : Bool) (x : Nat) (px : List (Index × Color)) :
    (pixelEvents c g x px).length = 2 * px.length := by
  induction px generalizing x with
  | nil => rfl
  | cons p rest ih => simp [pixelEvents, ih]; omega

/-- n columns from column x on: one index and one color each, in order; the cells of these columns hold the colors and
every other cell is unchanged (41_compose.md R134, R135, R140). -/
theorem composeColumns_spec (y : Nat) (g : Bool) (x n : Nat) (s : State) (hx : x + n ≤ 65536) :
    ∃ px : List (Index × Color), px.length = n ∧ AnswersInRange s.cfg px ∧
      (composeColumns y g x n s).hist = s.hist ++ pixelEvents s.cfg g x px ∧
      (∀ k (hk : k < px.length), (composeColumns y g x n s).fbRead y (x + k) = px[k].2) ∧
      ∀ y' x', x' < 65536 → ¬(y' = y ∧ x ≤ x' ∧ x' < x + n) →
        (composeColumns y g x n s).fbRead y' x' = s.fbRead y' x' := by
  induction n generalizing x s with
  | zero => exact ⟨[], by simp [composeColumns, pixelEvents]⟩
  | succ n ih =>
    obtain ⟨i, v, hiv, hh, hf⟩ := composePixel_spec y g x s
    have hr : ∀ y' x', (composePixel y g x s).fbRead y' x' = (s.fbWrite y x v).fbRead y' x' :=
      State.fbRead_congr (by simp [hf, State.fbWrite]) (by simp)
    obtain ⟨px, hl, hpx, hh', hin, hout⟩ := ih (x + 1) (composePixel y g x s) (by omega)
    refine ⟨(i, v) :: px, by simp [hl], ?_, ?_, ?_, ?_⟩
    · intro p hp
      rcases List.mem_cons.1 hp with rfl | hp
      · exact hiv
      · simpa using hpx p hp
    · rw [composeColumns, hh', hh, composePixel_frame y g x s |>.1, pixelEvents_cons s.cfg g x (i, v) px]
      simp
    · intro k hk
      cases k with
      | zero =>
        have := hout y x (by omega) (by omega)
        rw [hr, State.fbRead_fbWrite_same] at this
        simpa [composeColumns] using this
      | succ k =>
        have := hin k (by simpa using hk)
        simpa [composeColumns, Nat.add_assoc, Nat.add_comm 1 k] using this
    · intro y' x' hx' hne
      rw [composeColumns, hout y' x' hx' (by omega), hr, State.fbRead_fbWrite_ne s v (by omega) hx' (by omega)]

/-- The columns of a line keep the canonical form of the frame buffer. -/
theorem composeColumns_wf (y : Nat) (g : Bool) (x n : Nat) {s : State} (h : Memory.wf s.fb) :
    Memory.wf (composeColumns y g x n s).fb := by
  induction n generalizing x s with
  | zero => exact h
  | succ n ih =>
    obtain ⟨_, _, -, -, hf⟩ := composePixel_spec y g x s
    exact ih (x + 1) (by rw [hf]; exact Memory.wf_insert h _ _)

/-- The columns of a line keep the bounds of the listed cells (20_memory.md R51). -/
theorem composeColumns_cells (y : Nat) (g : Bool) (x n : Nat) {s : State} (hc : s.cfg.Ok) (hy : y < s.cfg.bufH)
    (hx : x + n ≤ s.cfg.bufW) (h : CellsInRange s) : CellsInRange (composeColumns y g x n s) := by
  induction n generalizing x s with
  | zero => exact h
  | succ n ih =>
    obtain ⟨i, v, ⟨-, hv⟩, -, hfb⟩ := composePixel_spec y g x s
    refine ih (x + 1) (by simpa using hc) (by simpa using hy) (by simp; omega) ?_
    have := CellsInRange.fbWrite h hy (show x < s.cfg.bufW by omega) hc.fit.2 hv
    intro e he
    rw [hfb] at he
    simpa [State.fbWrite] using this e (by simpa [State.fbWrite] using he)

/-- A composed row: its events, its cells, its record entry and its flag (41_compose.md R132 to R138). -/
theorem composeRow_spec (y : Nat) (s : State) (hc : s.cfg.Ok) :
    ∃ m g px, px.length = s.cfg.width m ∧ AnswersInRange s.cfg px ∧
      (composeRow y s).hist = s.hist ++ composerEvents s.cfg m g px ∧
      (∀ x (hx : x < px.length), (composeRow y s).fbRead y x = px[x].2) ∧
      (∀ y' x, x < 65536 → ¬(y' = y ∧ x < s.cfg.width m) → (composeRow y s).fbRead y' x = s.fbRead y' x) ∧
      (∀ y', (composeRow y s).recRead y' = if y' = y then .mode m else s.recRead y') ∧
      (composeRow y s).usage = s.usage.mark m := by
  have hfit := hc.fit
  have hle := s.cfg.width_le_canonical (s.queryWidth.1)
  set m := s.queryWidth.1 with hm
  set s2 := s.queryWidth.2.queryGray.2.callRender with hs2
  set g := s.queryWidth.2.queryGray.1 with hg
  have hcfg : s2.cfg = s.cfg := by simp [hs2]
  obtain ⟨px, hl, hpx, hh, hin, hout⟩ := composeColumns_spec y g 0 (s.cfg.width m) s2 (by omega)
  have hrow : composeRow y s = ((composeColumns y g 0 (s.cfg.width m) s2).recWrite y (.mode m)).setUsage
      (((composeColumns y g 0 (s.cfg.width m) s2).recWrite y (.mode m)).usage.mark m) := by
    simp [composeRow, hm, hs2, hg]
  refine ⟨m, g, px, hl, hcfg ▸ hpx, ?_, ?_, ?_, ?_, ?_⟩
  · have e1 : (composeRow y s).hist = (composeColumns y g 0 (s.cfg.width m) s2).hist := by rw [hrow]; simp
    rw [e1, hh, hcfg]
    simp [hs2, State.callRender_hist, composerEvents, hm, hg]
  · intro x hx
    rw [State.fbRead_congr (t := composeColumns y g 0 (s.cfg.width m) s2) (by rw [hrow]; simp) (by rw [hrow]; simp)]
    simpa using hin x hx
  · intro y' x hx hn
    rw [State.fbRead_congr (t := composeColumns y g 0 (s.cfg.width m) s2) (by rw [hrow]; simp) (by rw [hrow]; simp),
      hout y' x hx (by omega)]
    exact State.fbRead_congr (by simp [hs2]) hcfg y' x
  · intro y'
    rw [State.recRead_congr (t := (composeColumns y g 0 (s.cfg.width m) s2).recWrite y (.mode m)) (by rw [hrow]; simp),
      State.recRead_recWrite]
    congr 1
    exact State.recRead_congr (by simp [hs2]) y'
  · rw [hrow]; simp [hs2]

end Sys2Proof.Machine
end

