-- ==== Sys2Proof/Laws/Decode.lean ====
section
/-! SUPPORT. The decoder and the encoder in plain arithmetic: what a row's mask keeps, what a command's word is as a
number, and the one inversion of the decoder (30_encoding.md R71, R73, R75). -/

namespace Sys2Proof

/-- A mask of all bits from bit k up keeps what is above bit k. -/
theorem and_highMask (w : Word) {k : Nat} (hk : k ≤ 32) :
    (w &&& BitVec.ofNat 32 (2 ^ 32 - 2 ^ k)).toNat = w.toNat / 2 ^ k * 2 ^ k := by
  have hpos : 0 < 2 ^ k := Nat.two_pow_pos k
  have hle : 2 ^ k ≤ 2 ^ 32 := Nat.pow_le_pow_right (by decide) hk
  have hm : (BitVec.ofNat 32 (2 ^ 32 - 2 ^ k)).toNat = 2 ^ 32 - (2 ^ k - 1 + 1) := by
    rw [BitVec.toNat_ofNat, Nat.mod_eq_of_lt (by omega)]
    omega
  rw [BitVec.toNat_and, hm]
  refine Nat.eq_of_testBit_eq fun i => ?_
  rw [Nat.testBit_and, Nat.testBit_two_pow_sub_succ (by omega), Nat.testBit_two_pow_sub_one,
    Nat.testBit_mul_two_pow, Nat.testBit_div_two_pow]
  by_cases hi : i < 32
  · by_cases hki : k ≤ i
    · have : ¬ i < k := by omega
      simp [hi, hki, this, Nat.sub_add_cancel hki]
    · have : i < k := by omega
      simp [hi, hki, this]
  · have hw : w.toNat.testBit i = false :=
      Nat.testBit_lt_two_pow (Nat.lt_of_lt_of_le w.isLt (Nat.pow_le_pow_right (by decide) (by omega)))
    by_cases hki : k ≤ i
    · simp [hi, hki, hw, Nat.sub_add_cancel hki]
    · simp [hi, hki]

/-- A row with a mask from bit k up selects the words with the row's value above bit k. -/
theorem and_highMask_eq (w : Word) {k p : Nat} (hk : k ≤ 32) (hp : p * 2 ^ k < 2 ^ 32) :
    w &&& BitVec.ofNat 32 (2 ^ 32 - 2 ^ k) = BitVec.ofNat 32 (p * 2 ^ k) ↔ w.toNat / 2 ^ k = p := by
  rw [← BitVec.toNat_inj, and_highMask w hk, BitVec.toNat_ofNat, Nat.mod_eq_of_lt hp]
  exact ⟨fun h => Nat.eq_of_mul_eq_mul_right (Nat.two_pow_pos k) h, fun h => by rw [h]⟩

/-- The TICK row of the opcode map (30_encoding.md R73). -/
theorem selects_tick (w : Word) : w &&& 0xFFFFFFFF#32 = 0x10000000#32 ↔ w.toNat = 0x10000000 := by
  simpa using and_highMask_eq w (k := 0) (p := 0x10000000) (by decide) (by decide)

/-- The POWER row of the opcode map. -/
theorem selects_power (w : Word) : w &&& 0xFFFFFFFF#32 = 0x20000000#32 ↔ w.toNat = 0x20000000 := by
  simpa using and_highMask_eq w (k := 0) (p := 0x20000000) (by decide) (by decide)

/-- The RDPIX row of the opcode map. -/
theorem selects_rdpix (w : Word) : w &&& 0xF0000000#32 = 0x30000000#32 ↔ w.toNat / 2 ^ 28 = 3 := by
  simpa using and_highMask_eq w (k := 28) (p := 3) (by decide) (by decide)

/-- The RDREG row of the opcode map. -/
theorem selects_rdreg (w : Word) : w &&& 0xFFFFFF00#32 = 0x40000000#32 ↔ w.toNat / 2 ^ 8 = 0x400000 := by
  simpa using and_highMask_eq w (k := 8) (p := 0x400000) (by decide) (by decide)

/-- The RDREC row of the opcode map. -/
theorem selects_rdrec (w : Word) : w &&& 0xFFFFC000#32 = 0x50000000#32 ↔ w.toNat / 2 ^ 14 = 0x14000 := by
  simpa using and_highMask_eq w (k := 14) (p := 0x14000) (by decide) (by decide)

/-- A field of a word as a number (00_scope.md R10). -/
theorem field_toNat (w : Word) (lo n : Nat) : (w.extractLsb' lo n).toNat = w.toNat / 2 ^ lo % 2 ^ n := by
  rw [BitVec.extractLsb'_toNat, Nat.shiftRight_eq_div_pow]

/-- A concatenation as a number (00_scope.md R10). -/
theorem append_toNat {m n : Nat} (a : BitVec m) (b : BitVec n) : (a ++ b).toNat = a.toNat * 2 ^ n + b.toNat := by
  rw [BitVec.toNat_append, ← Nat.shiftLeft_add_eq_or_of_lt b.isLt, Nat.shiftLeft_eq]

/-- A register of the map is the one its number names (30_encoding.md R77). -/
theorem Reg.ofNumber_number (r : Reg) : Reg.ofNumber r.number = some r := by cases r <;> rfl

/-- The numbers of the map are 0 to 9. -/
theorem Reg.number_le (r : Reg) : r.number.toNat ≤ 9 := by cases r <;> decide

/-- A number names a register exactly when it is that register's (30_encoding.md R77, R78). -/
theorem Reg.ofNumber_eq_some {n : BitVec 8} {r : Reg} (h : Reg.ofNumber n = some r) : n = r.number := by
  unfold Reg.ofNumber at h
  refine BitVec.eq_of_toNat_eq ?_
  split at h <;> simp_all <;> subst h <;> rfl

/-- A number names no register exactly when it is 10 or more (30_encoding.md R78). -/
theorem Reg.ofNumber_eq_none {n : BitVec 8} : Reg.ofNumber n = none ↔ 10 ≤ n.toNat := by
  unfold Reg.ofNumber
  split <;> simp_all
  omega

/-- The decoder with its rows as arithmetic. -/
theorem decode_def (w : Word) : decode w =
    if w.toNat = 0x10000000 then .tick
    else if w.toNat = 0x20000000 then .power
    else if w.toNat / 2 ^ 28 = 3 then .rdpix (w.extractLsb' 0 14) (w.extractLsb' 14 14)
    else if w.toNat / 2 ^ 8 = 0x400000 then
      match Reg.ofNumber (w.extractLsb' 0 8) with
      | some r => .rdreg r
      | none => .illegal w
    else if w.toNat / 2 ^ 14 = 0x14000 then .rdrec (w.extractLsb' 0 14)
    else .illegal w := by
  simp only [decode, selects, beq_iff_eq, selects_tick, selects_power, selects_rdpix, selects_rdreg, selects_rdrec] <;>
    rfl

/-- The one inversion of the decoder: what a word decodes to, with what that says of the word. -/
theorem decode_cases (w : Word) :
    (w.toNat = 0x10000000 ∧ decode w = .tick) ∨ (w.toNat = 0x20000000 ∧ decode w = .power) ∨
    (w.toNat / 2 ^ 28 = 3 ∧ decode w = .rdpix (w.extractLsb' 0 14) (w.extractLsb' 14 14)) ∨
    (∃ r, w.toNat / 2 ^ 8 = 0x400000 ∧ w.extractLsb' 0 8 = r.number ∧ decode w = .rdreg r) ∨
    (w.toNat / 2 ^ 14 = 0x14000 ∧ decode w = .rdrec (w.extractLsb' 0 14)) ∨
    (w.toNat ≠ 0x10000000 ∧ w.toNat ≠ 0x20000000 ∧ w.toNat / 2 ^ 28 ≠ 3 ∧
      (w.toNat / 2 ^ 8 = 0x400000 → 10 ≤ w.toNat % 2 ^ 8) ∧ w.toNat / 2 ^ 14 ≠ 0x14000 ∧ decode w = .illegal w) := by
  rw [decode_def]
  split_ifs with h1 h2 h3 h4 h5
  · exact .inl ⟨h1, rfl⟩
  · exact .inr (.inl ⟨h2, rfl⟩)
  · exact .inr (.inr (.inl ⟨h3, rfl⟩))
  · cases hr : Reg.ofNumber (w.extractLsb' 0 8) with
    | some r => exact .inr (.inr (.inr (.inl ⟨r, h4, Reg.ofNumber_eq_some hr, rfl⟩)))
    | none =>
      have := Reg.ofNumber_eq_none.1 hr
      rw [field_toNat] at this
      refine .inr (.inr (.inr (.inr (.inr ⟨h1, h2, h3, fun _ => by simpa using this, by omega, rfl⟩))))
  · exact .inr (.inr (.inr (.inr (.inl ⟨h5, rfl⟩))))
  · exact .inr (.inr (.inr (.inr (.inr ⟨h1, h2, h3, fun h => absurd h h4, h5, rfl⟩))))

/-- The words of the commands as numbers (30_encoding.md R71). -/
theorem encode_rdpix_toNat (x y : BitVec 14) :
    (encode (.rdpix x y)).toNat = 3 * 2 ^ 28 + y.toNat * 2 ^ 14 + x.toNat := by
  simp only [encode, append_toNat]
  simp
  omega

theorem encode_rdreg_toNat (r : Reg) : (encode (.rdreg r)).toNat = 4 * 2 ^ 28 + r.number.toNat := by
  simp only [encode, append_toNat]
  simp

theorem encode_rdrec_toNat (y : BitVec 14) : (encode (.rdrec y)).toNat = 5 * 2 ^ 28 + y.toNat := by
  simp only [encode, append_toNat]
  simp

/-- Four bytes carry the word they were cut from (20_memory.md R53). -/
theorem wordOfBytes_bytesOfWord (w : Word) :
    wordOfBytes (w.extractLsb' 0 8) (w.extractLsb' 8 8) (w.extractLsb' 16 8) (w.extractLsb' 24 8) = w := by
  refine BitVec.eq_of_toNat_eq ?_
  have := w.isLt
  simp only [wordOfBytes, append_toNat, field_toNat]
  omega

/-- A word's legality (30_encoding.md R71, R74, R78) as arithmetic. -/
theorem legalWord_iff (w : Word) : legalWord w = true ↔
    w.toNat = 0x10000000 ∨ w.toNat = 0x20000000 ∨ w.toNat / 2 ^ 28 = 3 ∨
      (w.toNat / 2 ^ 8 = 0x400000 ∧ w.toNat % 2 ^ 8 ≤ 9) ∨ w.toNat / 2 ^ 14 = 0x14000 := by
  have hlt := w.isLt
  have hop : (w.extractLsb' 28 4).toNat = w.toNat / 2 ^ 28 := by
    rw [field_toNat, Nat.mod_eq_of_lt (by omega)]
  have hz : ∀ lo n, w.extractLsb' lo n = 0#n ↔ w.toNat / 2 ^ lo % 2 ^ n = 0 := fun lo n => by
    rw [← BitVec.toNat_inj, field_toNat]
    simp
  unfold legalWord
  split <;> rename_i heq <;> rw [hop] at heq <;>
    simp only [beq_iff_eq, hz, Bool.and_eq_true, decide_eq_true_eq, field_toNat, Bool.false_eq_true, true_iff,
      false_iff]
  all_goals first
    | omega
    | (rename_i h1 h2 h3 h4; rw [hop] at h1 h2 h3 h4; simp only [imp_false] at h1 h2 h3 h4 heq; omega)

end Sys2Proof
end

