-- ==== Sys2Proof/Laws/Normalize.lean ====
section
/-! SUPPORT. What the Normalizer does (42_normalize.md): the rows it stretches and skips, what it leaves unchanged. -/

namespace Sys2Proof.Machine

/-- A stretch changes the frame buffer alone (42_normalize.md R154). -/
@[simp] theorem stretchDown_frame (y k n : Nat) (s : State) :
    (stretchDown y k n s).cfg = s.cfg ∧ (stretchDown y k n s).clock = s.clock ∧
    (stretchDown y k n s).hcounter = s.hcounter ∧ (stretchDown y k n s).vcounter = s.vcounter ∧
    (stretchDown y k n s).frameLines = s.frameLines ∧ (stretchDown y k n s).usage = s.usage ∧
    (stretchDown y k n s).record = s.record ∧ (stretchDown y k n s).vp = s.vp ∧
    (stretchDown y k n s).status = s.status ∧ (stretchDown y k n s).resp = s.resp ∧
    (stretchDown y k n s).hist = s.hist ∧ (stretchDown y k n s).faults = s.faults ∧
    (stretchDown y k n s).cmds = s.cmds ∧ (stretchDown y k n s).tape = s.tape ∧
    (stretchDown y k n s).draws = s.draws := by
  induction n generalizing s with
  | zero => simp [stretchDown]
  | succ n ih => simp [stretchDown, ih]

/-- A stretch changes the frame buffer alone (42_normalize.md R154). -/
@[simp] theorem stretch_frame (y w k : Nat) (s : State) :
    (stretch y w k s).cfg = s.cfg ∧ (stretch y w k s).clock = s.clock ∧
    (stretch y w k s).hcounter = s.hcounter ∧ (stretch y w k s).vcounter = s.vcounter ∧
    (stretch y w k s).frameLines = s.frameLines ∧ (stretch y w k s).usage = s.usage ∧
    (stretch y w k s).record = s.record ∧ (stretch y w k s).vp = s.vp ∧ (stretch y w k s).status = s.status ∧
    (stretch y w k s).resp = s.resp ∧ (stretch y w k s).hist = s.hist ∧ (stretch y w k s).faults = s.faults ∧
    (stretch y w k s).cmds = s.cmds ∧ (stretch y w k s).tape = s.tape ∧ (stretch y w k s).draws = s.draws := by
  simp [stretch]

/-- A skipped row changes DIAG and the history alone (42_normalize.md R153). -/
@[simp] theorem skipRow_frame (y : Nat) (s : State) :
    (skipRow y s).cfg = s.cfg ∧ (skipRow y s).clock = s.clock ∧ (skipRow y s).hcounter = s.hcounter ∧
    (skipRow y s).vcounter = s.vcounter ∧ (skipRow y s).frameLines = s.frameLines ∧
    (skipRow y s).usage = s.usage ∧ (skipRow y s).record = s.record ∧ (skipRow y s).fb = s.fb ∧
    (skipRow y s).vp = s.vp ∧ (skipRow y s).resp = s.resp ∧ (skipRow y s).faults = s.faults ∧
    (skipRow y s).cmds = s.cmds ∧ (skipRow y s).tape = s.tape ∧ (skipRow y s).draws = s.draws := by
  simp [skipRow, State.countDiag]

/-- One row of a mixed frame changes cells, DIAG and the history alone (42_normalize.md R159). -/
@[simp] theorem normalizeRow_frame (y : Nat) (s : State) :
    (normalizeRow y s).cfg = s.cfg ∧ (normalizeRow y s).clock = s.clock ∧
    (normalizeRow y s).hcounter = s.hcounter ∧ (normalizeRow y s).vcounter = s.vcounter ∧
    (normalizeRow y s).frameLines = s.frameLines ∧ (normalizeRow y s).usage = s.usage ∧
    (normalizeRow y s).record = s.record ∧ (normalizeRow y s).vp = s.vp ∧ (normalizeRow y s).resp = s.resp ∧
    (normalizeRow y s).faults = s.faults ∧ (normalizeRow y s).cmds = s.cmds ∧
    (normalizeRow y s).tape = s.tape ∧ (normalizeRow y s).draws = s.draws := by
  unfold normalizeRow; split <;> simp

/-- The row pass changes cells, DIAG and the history alone (42_normalize.md R159). -/
@[simp] theorem normalizeRows_frame (y n : Nat) (s : State) :
    (normalizeRows y n s).cfg = s.cfg ∧ (normalizeRows y n s).clock = s.clock ∧
    (normalizeRows y n s).hcounter = s.hcounter ∧ (normalizeRows y n s).vcounter = s.vcounter ∧
    (normalizeRows y n s).frameLines = s.frameLines ∧ (normalizeRows y n s).usage = s.usage ∧
    (normalizeRows y n s).record = s.record ∧ (normalizeRows y n s).vp = s.vp ∧
    (normalizeRows y n s).resp = s.resp ∧ (normalizeRows y n s).faults = s.faults ∧
    (normalizeRows y n s).cmds = s.cmds ∧ (normalizeRows y n s).tape = s.tape ∧
    (normalizeRows y n s).draws = s.draws := by
  induction n generalizing y s with
  | zero => simp [normalizeRows]
  | succ n ih => simp [normalizeRows, ih]

/-- The Normalizer changes the viewport, cells, DIAG and the history alone (42_normalize.md R159). -/
@[simp] theorem normalizeFrame_frame (s : State) :
    (normalizeFrame s).cfg = s.cfg ∧ (normalizeFrame s).clock = s.clock ∧
    (normalizeFrame s).hcounter = s.hcounter ∧ (normalizeFrame s).vcounter = s.vcounter ∧
    (normalizeFrame s).frameLines = s.frameLines ∧ (normalizeFrame s).usage = s.usage ∧
    (normalizeFrame s).record = s.record ∧ (normalizeFrame s).resp = s.resp ∧
    (normalizeFrame s).faults = s.faults ∧ (normalizeFrame s).cmds = s.cmds ∧
    (normalizeFrame s).tape = s.tape ∧ (normalizeFrame s).draws = s.draws := by
  simp only [normalizeFrame]; split <;> simp

/-- Of STATUS, the row pass changes DIAG alone. -/
theorem normalizeRows_status (y n : Nat) (s : State) :
    (normalizeRows y n s).status = { s.status with diag := (normalizeRows y n s).status.diag } := by
  induction n generalizing y s with
  | zero => rfl
  | succ n ih =>
    rw [normalizeRows, ih (y + 1) (normalizeRow y s)]
    unfold normalizeRow
    split <;> simp [skipRow, State.countDiag]

/-- Of STATUS, the Normalizer changes DIAG alone (42_normalize.md R150). -/
theorem normalizeFrame_status (s : State) :
    (normalizeFrame s).status = { s.status with diag := (normalizeFrame s).status.diag } := by
  simp only [normalizeFrame]
  split
  · simp
  · rw [State.setVp_status, normalizeRows_status]
    simp

/-- The backward loop over columns n-1 down to 0: column j takes the color of column j / k as it stood before the loop,
and every other cell is unchanged (42_normalize.md R154). -/
theorem stretchDown_read (y k n : Nat) (s : State) (hn : n ≤ 65536) {y' x' : Nat} (hx : x' < 65536) :
    (stretchDown y k n s).fbRead y' x' = if y' = y ∧ x' < n then s.fbRead y (x' / k) else s.fbRead y' x' := by
  induction n generalizing s with
  | zero => simp [stretchDown]
  | succ j ih =>
    have hle : x' / k ≤ x' := Nat.div_le_self _ _
    rw [stretchDown, ih _ (by omega)]
    by_cases h : y' = y ∧ x' < j
    · rw [if_pos h, if_pos ⟨h.1, by omega⟩, State.fbRead_fbWrite_ne s _ (by omega) (by omega) (by omega)]
    · rw [if_neg h, State.fbRead_fbWrite s _ (by omega) hx]
      by_cases hj : y' = y ∧ x' = j
      · rw [if_pos hj, if_pos ⟨hj.1, by omega⟩, hj.2]
      · rw [if_neg hj, if_neg (by omega)]

/-- A stretch keeps the canonical form of the frame buffer. -/
theorem stretchDown_wf (y k n : Nat) {s : State} (h : Memory.wf s.fb) : Memory.wf (stretchDown y k n s).fb := by
  induction n generalizing s with
  | zero => exact h
  | succ j ih => exact ih (by simpa [State.fbWrite] using Memory.wf_insert h _ _)

/-- The row pass keeps the canonical form of the frame buffer. -/
theorem normalizeRows_wf (y n : Nat) {s : State} (h : Memory.wf s.fb) : Memory.wf (normalizeRows y n s).fb := by
  induction n generalizing y s with
  | zero => exact h
  | succ n ih =>
    refine ih (y + 1) ?_
    unfold normalizeRow
    split
    · simpa [skipRow, State.countDiag] using h
    · exact stretchDown_wf _ _ _ h

/-- The Normalizer keeps the canonical form of the frame buffer. -/
theorem normalizeFrame_wf {s : State} (h : Memory.wf s.fb) : Memory.wf (normalizeFrame s).fb := by
  simp only [normalizeFrame]
  split
  · simpa using h
  · simpa using normalizeRows_wf _ _ (by simpa using h)

/-- A stretch inside the buffer keeps the bounds of the listed cells (20_memory.md R51). -/
theorem stretchDown_cells (y k n : Nat) {s : State} (hc : s.cfg.Ok) (hy : y < s.cfg.bufH) (hn : n ≤ s.cfg.bufW)
    (h : CellsInRange s) : CellsInRange (stretchDown y k n s) := by
  induction n generalizing s with
  | zero => exact h
  | succ j ih =>
    exact ih (by simpa using hc) (by simpa using hy) (by simp; omega)
      (CellsInRange.fbWrite h hy (by omega) hc.fit.2 (State.fbRead_lt h _ _))

/-- One band row of a mixed frame, cell by cell: a recorded row is replicated by its factor over the canonical width, an
UNREC row is left as it is (42_normalize.md R152 to R154). -/
theorem normalizeRow_read (s : State) (hc : s.cfg.Ok) (y y' x : Nat) (hx : x < 65536) :
    (normalizeRow y s).fbRead y' x = if y' = y then stretchedRead s y x else s.fbRead y' x := by
  have hf := hc.fit
  unfold normalizeRow stretchedRead
  cases h : s.recRead y with
  | unrec =>
    simp only
    rw [State.fbRead_congr (t := s) (by simp) (by simp)]
    split
    · next h => rw [h]
    · rfl
  | mode m =>
    simp only [stretch]
    rw [stretchDown_read _ _ _ _ (by rw [hc.width_mul_factor]; omega) hx, hc.width_mul_factor]
    by_cases h1 : y' = y
    · subst h1
      by_cases h2 : x < s.cfg.canonicalWidth <;> simp [h2]
    · simp [h1]

end Sys2Proof.Machine
end

