-- ==== Sys2Proof/Laws/PerInstr.lean ====
section
/-! SUPPORT. What holds of every command as syntax, one lemma per constructor: the OP field of its word
(30_encoding.md R73). -/

namespace Sys2Proof.Laws.OpField

/-- The OP value of a legal command (30_encoding.md R73); an illegal word has none of its own. -/
def opOf : Instr → Option (BitVec 4)
  | .tick => some 1
  | .power => some 2
  | .rdpix _ _ => some 3
  | .rdreg _ => some 4
  | .rdrec _ => some 5
  | .illegal _ => none

/-- The word of a command is a legal word exactly when the command is legal, and its bits 31:28 are then the command's
OP (30_encoding.md R70, R73, R75). -/
def Statement (i : Instr) : Prop :=
  i.wellFormed = true →
    legalWord (encode i) = (opOf i).isSome ∧ ∀ op, opOf i = some op → (encode i).extractLsb' 28 4 = op

theorem tick : Statement .tick := by
  intro _
  exact ⟨by decide, fun op h => by cases h; decide⟩

theorem power : Statement .power := by
  intro _
  exact ⟨by decide, fun op h => by cases h; decide⟩

theorem rdpix (x y : BitVec 14) : Statement (.rdpix x y) := by
  intro _
  have hx := x.isLt
  have hy := y.isLt
  have hop : (encode (.rdpix x y)).extractLsb' 28 4 = 3#4 := by
    apply BitVec.eq_of_toNat_eq
    rw [field_toNat, encode_rdpix_toNat]
    simp
    omega
  exact ⟨by simp [legalWord, hop, opOf], fun op h => by cases h; exact hop⟩

theorem rdreg (r : Reg) : Statement (.rdreg r) := by
  intro _
  cases r <;> exact ⟨by decide, fun op h => by cases h; decide⟩

theorem rdrec (y : BitVec 14) : Statement (.rdrec y) := by
  intro _
  have hy := y.isLt
  have hop : (encode (.rdrec y)).extractLsb' 28 4 = 5#4 := by
    apply BitVec.eq_of_toNat_eq
    rw [field_toNat, encode_rdrec_toNat]
    simp
    omega
  have hz : (encode (.rdrec y)).extractLsb' 14 14 = 0#14 := by
    apply BitVec.eq_of_toNat_eq
    rw [field_toNat, encode_rdrec_toNat]
    simp
    omega
  exact ⟨by simp [legalWord, hop, hz, opOf], fun op h => by cases h; exact hop⟩

theorem illegal (word : Word) : Statement (.illegal word) := by
  intro h
  exact ⟨by simpa [Instr.wellFormed, encode, opOf] using h, fun op h => by cases h⟩

end Sys2Proof.Laws.OpField
end

