-- ==== Sys2Proof/Laws/Tick.lean ====
section
/-! SUPPORT. What the steps of a TICK do (40_tick.md R100 to R112): their frames, the line a legal TICK runs, and the
end-of-line cases. -/

namespace Sys2Proof.Machine

/-- Step 1 changes the history alone. -/
@[simp] theorem tickStep1_frame (s : State) :
    (tickStep1 s).cfg = s.cfg ∧ (tickStep1 s).clock = s.clock ∧ (tickStep1 s).hcounter = s.hcounter ∧
    (tickStep1 s).vcounter = s.vcounter ∧ (tickStep1 s).frameLines = s.frameLines ∧
    (tickStep1 s).usage = s.usage ∧ (tickStep1 s).record = s.record ∧ (tickStep1 s).fb = s.fb ∧
    (tickStep1 s).vp = s.vp ∧ (tickStep1 s).status = s.status ∧ (tickStep1 s).resp = s.resp ∧
    (tickStep1 s).faults = s.faults ∧ (tickStep1 s).cmds = s.cmds ∧ (tickStep1 s).tape = s.tape ∧
    (tickStep1 s).draws = s.draws := by
  simp [tickStep1]

/-- Step 4 changes the history alone. -/
@[simp] theorem tickStep4_frame (s : State) :
    (tickStep4 s).cfg = s.cfg ∧ (tickStep4 s).clock = s.clock ∧ (tickStep4 s).hcounter = s.hcounter ∧
    (tickStep4 s).vcounter = s.vcounter ∧ (tickStep4 s).frameLines = s.frameLines ∧
    (tickStep4 s).usage = s.usage ∧ (tickStep4 s).record = s.record ∧ (tickStep4 s).fb = s.fb ∧
    (tickStep4 s).vp = s.vp ∧ (tickStep4 s).status = s.status ∧ (tickStep4 s).resp = s.resp ∧
    (tickStep4 s).faults = s.faults ∧ (tickStep4 s).cmds = s.cmds ∧ (tickStep4 s).tape = s.tape ∧
    (tickStep4 s).draws = s.draws := by
  simp [tickStep4]

/-- Step 7 changes the history alone. -/
@[simp] theorem tickStep7_frame (s : State) :
    (tickStep7 s).cfg = s.cfg ∧ (tickStep7 s).clock = s.clock ∧ (tickStep7 s).hcounter = s.hcounter ∧
    (tickStep7 s).vcounter = s.vcounter ∧ (tickStep7 s).frameLines = s.frameLines ∧
    (tickStep7 s).usage = s.usage ∧ (tickStep7 s).record = s.record ∧ (tickStep7 s).fb = s.fb ∧
    (tickStep7 s).vp = s.vp ∧ (tickStep7 s).status = s.status ∧ (tickStep7 s).resp = s.resp ∧
    (tickStep7 s).faults = s.faults ∧ (tickStep7 s).cmds = s.cmds ∧ (tickStep7 s).tape = s.tape ∧
    (tickStep7 s).draws = s.draws := by
  simp [tickStep7]

/-- Step 2 changes the history, the usage flags and the record alone (40_tick.md R102). -/
@[simp] theorem tickStep2_frame (s : State) :
    (tickStep2 s).cfg = s.cfg ∧ (tickStep2 s).clock = s.clock ∧ (tickStep2 s).hcounter = s.hcounter ∧
    (tickStep2 s).vcounter = s.vcounter ∧ (tickStep2 s).frameLines = s.frameLines ∧ (tickStep2 s).fb = s.fb ∧
    (tickStep2 s).vp = s.vp ∧ (tickStep2 s).status = s.status ∧ (tickStep2 s).resp = s.resp ∧
    (tickStep2 s).faults = s.faults ∧ (tickStep2 s).cmds = s.cmds ∧ (tickStep2 s).tape = s.tape ∧
    (tickStep2 s).draws = s.draws := by
  unfold tickStep2; split <;> simp

/-- An advance changes the clock, the line counter and the history alone (40_tick.md R104, R107). -/
@[simp] theorem advanceCycles_frame (n : Nat) (s : State) :
    (advanceCycles n s).cfg = s.cfg ∧ (advanceCycles n s).vcounter = s.vcounter ∧
    (advanceCycles n s).frameLines = s.frameLines ∧ (advanceCycles n s).usage = s.usage ∧
    (advanceCycles n s).record = s.record ∧ (advanceCycles n s).fb = s.fb ∧ (advanceCycles n s).vp = s.vp ∧
    (advanceCycles n s).status = s.status ∧ (advanceCycles n s).resp = s.resp ∧
    (advanceCycles n s).faults = s.faults ∧ (advanceCycles n s).cmds = s.cmds ∧
    (advanceCycles n s).tape = s.tape ∧ (advanceCycles n s).draws = s.draws := by
  simp [advanceCycles]

/-- Step 3 changes the clock, the line counter and the history alone. -/
@[simp] theorem tickStep3_frame (s : State) :
    (tickStep3 s).cfg = s.cfg ∧ (tickStep3 s).vcounter = s.vcounter ∧ (tickStep3 s).frameLines = s.frameLines ∧
    (tickStep3 s).usage = s.usage ∧ (tickStep3 s).record = s.record ∧ (tickStep3 s).fb = s.fb ∧
    (tickStep3 s).vp = s.vp ∧ (tickStep3 s).status = s.status ∧ (tickStep3 s).resp = s.resp ∧
    (tickStep3 s).faults = s.faults ∧ (tickStep3 s).cmds = s.cmds ∧ (tickStep3 s).tape = s.tape ∧
    (tickStep3 s).draws = s.draws := by
  simp [tickStep3]

/-- Step 6 changes the clock, the line counter and the history alone. -/
@[simp] theorem tickStep6_frame (s : State) :
    (tickStep6 s).cfg = s.cfg ∧ (tickStep6 s).vcounter = s.vcounter ∧ (tickStep6 s).frameLines = s.frameLines ∧
    (tickStep6 s).usage = s.usage ∧ (tickStep6 s).record = s.record ∧ (tickStep6 s).fb = s.fb ∧
    (tickStep6 s).vp = s.vp ∧ (tickStep6 s).status = s.status ∧ (tickStep6 s).resp = s.resp ∧
    (tickStep6 s).faults = s.faults ∧ (tickStep6 s).cmds = s.cmds ∧ (tickStep6 s).tape = s.tape ∧
    (tickStep6 s).draws = s.draws := by
  simp [tickStep6]

@[simp] theorem advanceCycles_clock (n : Nat) (s : State) :
    (advanceCycles n s).clock = s.clock + BitVec.ofNat 64 n := by simp [advanceCycles]

@[simp] theorem advanceCycles_hcounter (n : Nat) (s : State) :
    (advanceCycles n s).hcounter = s.hcounter + BitVec.ofNat 16 n := by simp [advanceCycles]

@[simp] theorem advanceCycles_hist (n : Nat) (s : State) :
    (advanceCycles n s).hist = s.hist ++ [.dma n] := by simp [advanceCycles]

/-- Step 2 on the record: every row UNREC at the start of a frame, else as it was (40_tick.md R102). -/
theorem tickStep2_recRead (s : State) (y : Nat) :
    (tickStep2 s).recRead y = if s.vcounter = 0 then .unrec else s.recRead y := by
  unfold tickStep2; split <;> simp

/-- Step 2 on the usage flags (40_tick.md R102). -/
theorem tickStep2_usage (s : State) : (tickStep2 s).usage = if s.vcounter = 0 then Usage.none else s.usage := by
  unfold tickStep2; split <;> simp

theorem tickStep2_hist (s : State) :
    (tickStep2 s).hist = s.hist ++ (if s.vcounter = 0 then chipEvents s.cfg .vsync else []) := by
  unfold tickStep2; split <;> simp [State.callChips_hist]

/-- The state in which step 5 of a TICK that passes its entry checks runs: steps 0 to 4. -/
def beforeBand (s : State) : State :=
  tickStep4 (tickStep3 (tickStep2 (tickStep1 (s.setFr false))))

/-- Step 5 with its band check decided: composition of a band row, or nothing (40_tick.md R106). -/
def bandRow (s : State) : State :=
  if s.cfg.InBand s.vcounter.toNat then composeRow s.vcounter.toNat s else s

/-- Step 5 never stops: the Composer's own check cannot fail after it (41_compose.md R131). -/
theorem tickStep5_eq (s : State) : tickStep5 s = .go (bandRow s) := by
  unfold tickStep5 bandRow compose
  split <;> rfl

/-- The state at the end of a line, before the counters are checked: steps 0 to 7. -/
def afterLine (s : State) : State :=
  tickStep7 (tickStep6 (bandRow (beforeBand s)))

/-- What steps 0 to 4 leave unchanged. -/
@[simp] theorem beforeBand_frame (s : State) :
    (beforeBand s).cfg = s.cfg ∧ (beforeBand s).vcounter = s.vcounter ∧
    (beforeBand s).frameLines = s.frameLines ∧ (beforeBand s).fb = s.fb ∧ (beforeBand s).vp = s.vp ∧
    (beforeBand s).resp = s.resp ∧ (beforeBand s).faults = s.faults ∧ (beforeBand s).cmds = s.cmds ∧
    (beforeBand s).tape = s.tape ∧ (beforeBand s).draws = s.draws := by
  simp [beforeBand]

/-- What step 5 leaves unchanged. -/
@[simp] theorem bandRow_frame (s : State) :
    (bandRow s).cfg = s.cfg ∧ (bandRow s).clock = s.clock ∧ (bandRow s).hcounter = s.hcounter ∧
    (bandRow s).vcounter = s.vcounter ∧ (bandRow s).frameLines = s.frameLines ∧ (bandRow s).vp = s.vp ∧
    (bandRow s).status = s.status ∧ (bandRow s).resp = s.resp ∧ (bandRow s).faults = s.faults ∧
    (bandRow s).cmds = s.cmds := by
  unfold bandRow; split <;> simp

/-- What steps 0 to 7 leave unchanged. -/
@[simp] theorem afterLine_frame (s : State) :
    (afterLine s).cfg = s.cfg ∧ (afterLine s).vcounter = s.vcounter ∧ (afterLine s).frameLines = s.frameLines ∧
    (afterLine s).vp = s.vp ∧ (afterLine s).resp = s.resp ∧ (afterLine s).faults = s.faults ∧
    (afterLine s).cmds = s.cmds := by
  simp [afterLine]

@[simp] theorem beforeBand_status (s : State) : (beforeBand s).status = { s.status with fr := false } := by
  simp [beforeBand]

@[simp] theorem afterLine_status (s : State) : (afterLine s).status = { s.status with fr := false } := by
  simp [afterLine]

theorem beforeBand_recRead (s : State) (y : Nat) :
    (beforeBand s).recRead y = if s.vcounter = 0 then .unrec else s.recRead y := by
  rw [State.recRead_congr (t := tickStep2 (tickStep1 (s.setFr false))) (by simp [beforeBand]), tickStep2_recRead,
    State.recRead_congr (t := s) (by simp)]
  simp

theorem beforeBand_usage (s : State) : (beforeBand s).usage = if s.vcounter = 0 then Usage.none else s.usage := by
  simp [beforeBand, tickStep2_usage]

theorem beforeBand_hist (s : State) :
    (beforeBand s).hist = s.hist ++ (chipEvents s.cfg .hsync ++
      (if s.vcounter = 0 then chipEvents s.cfg .vsync else []) ++ [.dma s.cfg.preCycles] ++
      chipEvents s.cfg .hclock) := by
  simp [beforeBand, tickStep4, tickStep3, tickStep1, State.callChips_hist, tickStep2_hist]

/-- The clock after the line: PRE_CYCLES and POST_CYCLES added (40_tick.md R104, R107). -/
theorem afterLine_clock {s : State} (h : s.cfg.Ok) :
    (afterLine s).clock = s.clock + BitVec.ofNat 64 s.cfg.lineCycles := by
  have hl := h.line
  have hsum : s.cfg.preCycles + s.cfg.postCycles = s.cfg.lineCycles := by unfold Cfg.postCycles; omega
  simp [afterLine, tickStep6, beforeBand, tickStep3]
  rw [BitVec.add_assoc, ← BitVec.ofNat_add, hsum]

/-- The line counter after the line is the full budget (40_tick.md R109). -/
theorem afterLine_hcounter {s : State} (h : s.cfg.Ok) (h0 : s.hcounter.toNat = 0) :
    (afterLine s).hcounter.toNat = s.cfg.lineCycles := by
  have hl := h.line
  have hsum : s.cfg.preCycles + s.cfg.postCycles = s.cfg.lineCycles := by unfold Cfg.postCycles; omega
  have hz : s.hcounter = 0#16 := BitVec.eq_of_toNat_eq (by simpa using h0)
  simp [afterLine, tickStep6, beforeBand, tickStep3, hz]
  omega

/-- The record after the line. -/
theorem afterLine_recRead (s : State) (y : Nat) : (afterLine s).recRead y = (bandRow (beforeBand s)).recRead y :=
  State.recRead_congr (by simp [afterLine]) y

/-- The frame buffer after the line. -/
theorem afterLine_fbRead (s : State) (y x : Nat) : (afterLine s).fbRead y x = (bandRow (beforeBand s)).fbRead y x :=
  State.fbRead_congr (by simp [afterLine]) (by simp [afterLine]) y x

theorem afterLine_hist (s : State) :
    (afterLine s).hist = (bandRow (beforeBand s)).hist ++ ([.dma s.cfg.postCycles] ++ chipEvents s.cfg .vclock) := by
  simp [afterLine, tickStep7, tickStep6, State.callChips_hist]

/-- Step 0 of a TICK that passes its entry checks (40_tick.md R100). -/
theorem tickStep0_ok {s : State} (h : EntryOk s) : tickStep0 s = .go (s.setFr false) := by
  obtain ⟨hf, hh, h2⟩ := h
  have hz : s.hcounter = 0#16 := BitVec.eq_of_toNat_eq (by simpa using hh)
  have hc : CountersLegal (s.setFr false) := by simpa [CountersLegal, Inv2] using h2
  simp [tickStep0, hf, hz, hc]

/-- A TICK that passes its entry checks runs its whole line: no check up to step 8a fails (60_exceptions.md R212). -/
theorem tickLine_ok {s : State} (hc : s.cfg.Ok) (h : EntryOk s) :
    tickLine s = .go (((afterLine s).setHcounter 0).setVcounter (BitVec.ofNat 16 (s.vcounter.toNat + 1))) := by
  have h2 := h.2.2
  have hb : (afterLine s).hcounter.toNat = s.cfg.lineCycles := afterLine_hcounter hc h.2.1
  rw [tickLine, tickStep0_ok h]
  simp only [Flow.andThen_go, tickStep5_eq]
  change tickStep8a (afterLine s) = _
  unfold tickStep8a
  simp only [afterLine_frame, hb, ne_eq, not_true_eq_false, if_false, State.setHcounter_frameLines,
    State.setHcounter_vcounter, State.setHcounter_cfg]
  rw [if_neg (by rcases h2 with h2 | h2 <;> omega)]

/-- The counters after a line (40_tick.md R109). -/
theorem vcounter_succ_toNat {s : State} (hc : s.cfg.Ok) (h : Inv2 s) :
    (BitVec.ofNat 16 (s.vcounter.toNat + 1)).toNat = s.vcounter.toNat + 1 := by
  have := hc.lines
  rw [BitVec.toNat_ofNat]
  rcases h with h | h <;> omega

/-- The state a line leaves: the line counter reset and the next row (40_tick.md R109). -/
def endLine (s : State) : State :=
  ((afterLine s).setHcounter 0).setVcounter (BitVec.ofNat 16 (s.vcounter.toNat + 1))

/-- The state in which a frame ends, before it is normalized (40_tick.md R110). -/
def endFrame (s : State) : State :=
  tickStep8c (normalizeFrame ((s.setVcounter 0).setFrameLines 0))

/-- What a line leaves unchanged. -/
@[simp] theorem endLine_frame (s : State) :
    (endLine s).cfg = s.cfg ∧ (endLine s).frameLines = s.frameLines ∧ (endLine s).vp = s.vp ∧
    (endLine s).resp = s.resp ∧ (endLine s).faults = s.faults ∧ (endLine s).cmds = s.cmds := by
  simp [endLine]

/-- What the end of a frame leaves unchanged. -/
@[simp] theorem endFrame_frame (s : State) :
    (endFrame s).cfg = s.cfg ∧ (endFrame s).clock = s.clock ∧ (endFrame s).hcounter = s.hcounter ∧
    (endFrame s).usage = s.usage ∧ (endFrame s).record = s.record ∧ (endFrame s).resp = s.resp ∧
    (endFrame s).faults = s.faults ∧ (endFrame s).cmds = s.cmds ∧ (endFrame s).tape = s.tape ∧
    (endFrame s).draws = s.draws := by
  simp [endFrame, tickStep8c]

/-- A TICK that passes its entry checks comes to step 8b with its line done (60_exceptions.md R212). -/
theorem tickSteps_ok {s : State} (hc : s.cfg.Ok) (h : EntryOk s) : tickSteps s = tickStep8b (endLine s) := by
  rw [tickSteps, tickLine_ok hc h]
  rfl

/-- Step 8b when the latch is not due and the line is not the last: nothing (40_tick.md R110). -/
theorem tickStep8b_inside {u : State} (hl : ¬(u.frameLines.toNat = 0 ∧ u.vcounter.toNat = u.cfg.nominalLines))
    (hw : ¬(u.frameLines.toNat ≠ 0 ∧ u.vcounter.toNat = u.frameLines.toNat)) : tickStep8b u = .go u := by
  have hl' : ¬(u.frameLines = 0 ∧ u.vcounter.toNat = u.cfg.nominalLines) := fun h =>
    hl ⟨by rw [h.1]; rfl, h.2⟩
  have hw' : ¬(u.frameLines ≠ 0 ∧ u.vcounter = u.frameLines) := fun h =>
    hw ⟨fun h0 => h.1 (BitVec.eq_of_toNat_eq h0), by rw [h.2]⟩
  simp only [tickStep8b, tickLatch, if_neg hl', Flow.andThen_go, tickWrap, if_neg hw']

/-- Step 8b on the last line of a latched frame: the wrap (40_tick.md R110). -/
theorem tickStep8b_wrap {u : State} (h0 : u.frameLines.toNat ≠ 0) (hv : u.vcounter.toNat = u.frameLines.toNat) :
    tickStep8b u = .go (endFrame u) := by
  have hn : u.frameLines ≠ 0 := fun h => h0 (by rw [h]; rfl)
  have hl' : ¬(u.frameLines = 0 ∧ u.vcounter.toNat = u.cfg.nominalLines) := fun h => hn h.1
  have hw' : u.frameLines ≠ 0 ∧ u.vcounter = u.frameLines := ⟨hn, BitVec.eq_of_toNat_eq hv⟩
  simp only [tickStep8b, tickLatch, if_neg hl', Flow.andThen_go, tickWrap, if_pos hw', endFrame]

/-- Step 8b when the latch is due and its answer is refused: Fatal(1) (40_tick.md R110). -/
theorem tickStep8b_bad {u : State} (h0 : u.frameLines.toNat = 0) (hv : u.vcounter.toNat = u.cfg.nominalLines)
    (hb : u.queryExtra.1 < 0 ∨ u.cfg.nominalLines + u.queryExtra.1 > u.cfg.bufH) :
    tickStep8b u = .stop (u.queryExtra.2.raiseFatal .threshold u.queryExtra.1) := by
  have hl' : u.frameLines = 0 ∧ u.vcounter.toNat = u.cfg.nominalLines := ⟨BitVec.eq_of_toNat_eq h0, hv⟩
  simp only [tickStep8b, tickLatch, if_pos hl', State.queryExtra_frame, if_pos hb, Flow.andThen_stop]

/-- Step 8b when the latch is due and its answer is accepted: the threshold is latched, and an answer of 0 wraps in the
same TICK (40_tick.md R110, 44_collaborator_interface.md R200). -/
theorem tickStep8b_latch {u : State} (hc : u.cfg.Ok) (h0 : u.frameLines.toNat = 0)
    (hv : u.vcounter.toNat = u.cfg.nominalLines) (ha : 0 ≤ u.queryExtra.1)
    (hb : u.cfg.nominalLines + u.queryExtra.1 ≤ u.cfg.bufH) :
    let t := u.queryExtra.2.setFrameLines (BitVec.ofNat 16 (u.cfg.nominalLines + u.queryExtra.1).toNat)
    (t.frameLines.toNat : Int) = u.cfg.nominalLines + u.queryExtra.1 ∧
      tickStep8b u = .go (if u.queryExtra.1 = 0 then endFrame t else t) := by
  intro t
  have hlines := hc.lines
  have hl' : u.frameLines = 0 ∧ u.vcounter.toNat = u.cfg.nominalLines := ⟨BitVec.eq_of_toNat_eq h0, hv⟩
  have hn : ¬(u.queryExtra.1 < 0 ∨ u.cfg.nominalLines + u.queryExtra.1 > u.cfg.bufH) := by omega
  have hf : (t.frameLines.toNat : Int) = u.cfg.nominalLines + u.queryExtra.1 := by
    simp only [t, State.setFrameLines_frameLines, BitVec.toNat_ofNat]
    omega
  refine ⟨hf, ?_⟩
  simp only [tickStep8b, tickLatch, if_pos hl', State.queryExtra_frame, if_neg hn, Flow.andThen_go]
  change Flow.go (tickWrap t) = _
  have hvt : t.vcounter.toNat = u.cfg.nominalLines := by simp [t, hv]
  have hne : t.frameLines ≠ 0 := fun h => by
    rw [h] at hf
    simp at hf
    omega
  unfold tickWrap endFrame
  by_cases h : u.queryExtra.1 = 0
  · have he : t.vcounter = t.frameLines := BitVec.eq_of_toNat_eq (by omega)
    rw [if_pos ⟨hne, he⟩, if_pos h]
  · have he : t.vcounter ≠ t.frameLines := fun e => h (by rw [e] at hvt; omega)
    rw [if_neg (fun c => he c.2), if_neg h]

/-- The answer a due latch gets is the one the oracle gives after the line (40_tick.md R110). -/
theorem extraAnswer_eq {s : State} (hc : s.cfg.Ok) (h : EntryOk s) : extraAnswer s = (endLine s).queryExtra.1 := by
  unfold extraAnswer
  rw [tickLine_ok hc h]
  rfl

/-- The row after a line (40_tick.md R109). -/
theorem endLine_vcounter {s : State} (hc : s.cfg.Ok) (h : EntryOk s) :
    (endLine s).vcounter.toNat = s.vcounter.toNat + 1 := by
  simpa [endLine] using vcounter_succ_toNat hc h.2.2

@[simp] theorem endLine_hcounter (s : State) : (endLine s).hcounter = 0 := by simp [endLine]

@[simp] theorem endLine_status (s : State) : (endLine s).status = { s.status with fr := false } := by simp [endLine]

theorem endLine_clock {s : State} (hc : s.cfg.Ok) :
    (endLine s).clock = s.clock + BitVec.ofNat 64 s.cfg.lineCycles := by
  simp [endLine, afterLine_clock hc]

@[simp] theorem endFrame_vcounter (s : State) : (endFrame s).vcounter = 0 := by simp [endFrame, tickStep8c]

@[simp] theorem endFrame_frameLines (s : State) : (endFrame s).frameLines = 0 := by simp [endFrame, tickStep8c]

/-- Of STATUS, the end of a frame sets FR and DIAG alone (40_tick.md R111, 42_normalize.md R150). -/
theorem endFrame_status (s : State) :
    (endFrame s).status = { s.status with fr := true, diag := (endFrame s).status.diag } := by
  simp only [endFrame, tickStep8c, State.emit_status, State.setFr_status]
  rw [normalizeFrame_status]
  simp

/-- The one inversion of a TICK that passes its entry checks: a line inside the frame, the last line of a latched frame,
a refused threshold, or an accepted one (40_tick.md R109 to R111). -/
theorem execTick_cases {s : State} (hc : s.cfg.Ok) (h : EntryOk s) :
    (¬ LatchDue s ∧ ¬(s.frameLines.toNat ≠ 0 ∧ s.vcounter.toNat + 1 = s.frameLines.toNat) ∧
      exec .tick s = .next (endLine s)) ∨
    (s.frameLines.toNat ≠ 0 ∧ s.vcounter.toNat + 1 = s.frameLines.toNat ∧
      exec .tick s = .next (endFrame (endLine s))) ∨
    (LatchDue s ∧ (extraAnswer s < 0 ∨ s.cfg.nominalLines + extraAnswer s > s.cfg.bufH) ∧
      exec .tick s = .next ((endLine s).queryExtra.2.raiseFatal .threshold (extraAnswer s))) ∨
    (LatchDue s ∧ 0 ≤ extraAnswer s ∧ s.cfg.nominalLines + extraAnswer s ≤ s.cfg.bufH ∧
      ∃ u, u = (endLine s).queryExtra.2.setFrameLines (BitVec.ofNat 16 (s.cfg.nominalLines + extraAnswer s).toNat) ∧
        (u.frameLines.toNat : Int) = s.cfg.nominalLines + extraAnswer s ∧
        exec .tick s = .next (if extraAnswer s = 0 then endFrame u else u)) := by
  have hv := endLine_vcounter hc h
  have hea := extraAnswer_eq hc h
  have hcfg : (endLine s).cfg = s.cfg := by simp
  have hfl : (endLine s).frameLines = s.frameLines := by simp
  have he : exec .tick s = .next (tickStep8b (endLine s)).state := by rw [← tickSteps_ok hc h]; rfl
  rw [he]
  by_cases hl : LatchDue s
  · have h0 : (endLine s).frameLines.toNat = 0 := by rw [hfl]; exact hl.1
    have hv' : (endLine s).vcounter.toNat = (endLine s).cfg.nominalLines := by rw [hv, hcfg]; exact hl.2
    by_cases hb : extraAnswer s < 0 ∨ s.cfg.nominalLines + extraAnswer s > s.cfg.bufH
    · refine .inr (.inr (.inl ⟨hl, hb, ?_⟩))
      rw [tickStep8b_bad h0 hv' (by rw [hcfg, ← hea]; exact hb), hea]
      rfl
    · have := tickStep8b_latch (u := endLine s) (by rw [hcfg]; exact hc) h0 hv' (by rw [← hea]; omega)
        (by rw [hcfg, ← hea]; omega)
      rw [hcfg, ← hea] at this
      exact .inr (.inr (.inr ⟨hl, by omega, by omega, _, rfl, this.1, by rw [this.2]; rfl⟩))
  · by_cases hw : s.frameLines.toNat ≠ 0 ∧ s.vcounter.toNat + 1 = s.frameLines.toNat
    · refine .inr (.inl ⟨hw.1, hw.2, ?_⟩)
      rw [tickStep8b_wrap (by rw [hfl]; exact hw.1) (by rw [hfl, hv]; exact hw.2)]
      rfl
    · refine .inl ⟨hl, hw, ?_⟩
      rw [tickStep8b_inside (by rw [hfl, hv, hcfg]; exact hl) (by rw [hfl, hv]; exact hw)]
      rfl

/-- The other inversion: a TICK that does not pass its entry checks is ignored (halted) or faults before any call
(40_tick.md R100). -/
theorem execTick_entry {s : State} (h : ¬ EntryOk s) :
    (s.status.fatal = true ∧ exec .tick s = .next s) ∨
    (s.status.fatal = false ∧ ∃ k info, exec .tick s = .next ((s.setFr false).raiseFatal k info)) := by
  by_cases hf : s.status.fatal = true
  · exact .inl ⟨hf, by simp [exec, execTick, tickSteps, tickLine, tickStep0, hf]⟩
  · have hf : s.status.fatal = false := by simpa using hf
    refine .inr ⟨hf, ?_⟩
    by_cases h0 : s.hcounter = 0
    · have hc : ¬ CountersLegal (s.setFr false) := fun hl =>
        h ⟨hf, by rw [h0]; rfl, by simpa [CountersLegal, Inv2] using hl⟩
      refine ⟨.vcount, s.vcounter.toNat, ?_⟩
      simp only [exec, execTick, tickSteps, tickLine, tickStep0, hf, Bool.false_eq_true, if_false]
      rw [if_neg (by simp [h0]), if_pos hc]
      rfl
    · refine ⟨.hentry, s.hcounter.toNat, ?_⟩
      simp only [exec, execTick, tickSteps, tickLine, tickStep0, hf, Bool.false_eq_true, if_false]
      rw [if_pos (by simpa using h0)]
      rfl

/-- The frame buffer after a line is that of step 5. -/
theorem endLine_fbRead (s : State) (y x : Nat) : (endLine s).fbRead y x = (bandRow (beforeBand s)).fbRead y x := by
  rw [State.fbRead_congr (t := afterLine s) (by simp [endLine]) (by simp [endLine]), afterLine_fbRead]

/-- The record after a line is that of step 5. -/
theorem endLine_recRead (s : State) (y : Nat) : (endLine s).recRead y = (bandRow (beforeBand s)).recRead y := by
  rw [State.recRead_congr (t := afterLine s) (by simp [endLine]), afterLine_recRead]

/-- The usage flags after a line are those of step 5. -/
theorem endLine_usage (s : State) : (endLine s).usage = (bandRow (beforeBand s)).usage := by
  simp [endLine, afterLine]

/-- The inversion of a TICK in any state, whatever its configuration: ignored (halted), stopped by a fatal fault at
entry, after the line or at the latch, or ended with or without the end of a frame (40_tick.md R100 to R112). -/
theorem execTick_inv {s t : State} (he : exec .tick s = .next t) :
    (s.status.fatal = true ∧ t = s) ∨
    (s.status.fatal = false ∧
      ((∃ u k info, (u = s.setFr false ∨ u = afterLine s ∨ u = (afterLine s).setHcounter 0 ∨
          u = (endLine s).queryExtra.2) ∧ t = u.raiseFatal k info) ∨
        ∃ u, (u = endLine s ∨ ∃ v, u = (endLine s).queryExtra.2.setFrameLines v) ∧ (t = u ∨ t = endFrame u))) := by
  by_cases hen : EntryOk s
  · refine .inr ⟨hen.1, ?_⟩
    have hl : tickLine s = tickStep8a (afterLine s) := by
      rw [tickLine, tickStep0_ok hen]
      simp only [Flow.andThen_go, tickStep5_eq]
      rfl
    have ht : t = ((tickStep8a (afterLine s)).andThen tickStep8b).state := by
      cases he
      rw [← hl]
      rfl
    subst ht
    unfold tickStep8a
    split
    · exact .inl ⟨_, _, _, .inr (.inl rfl), rfl⟩
    · simp only
      split
      · exact .inl ⟨_, _, _, .inr (.inr (.inl rfl)), rfl⟩
      · have hw : ∀ u, tickWrap u = u ∨ tickWrap u = endFrame u := fun u => by
          unfold tickWrap endFrame
          split
          · exact .inr rfl
          · exact .inl rfl
        have hu : ((afterLine s).setHcounter 0).setVcounter
            (BitVec.ofNat 16 (((afterLine s).setHcounter 0).vcounter.toNat + 1)) = endLine s := by
          simp [endLine]
        rw [hu]
        simp only [Flow.andThen_go, tickStep8b]
        unfold tickLatch
        split
        · simp only
          split
          · exact .inl ⟨_, _, _, .inr (.inr (.inr rfl)), rfl⟩
          · exact .inr ⟨_, .inr ⟨_, rfl⟩, hw _⟩
        · exact .inr ⟨_, .inl rfl, hw _⟩
  · rcases execTick_entry hen with ⟨hf, h⟩ | ⟨hf, k, info, h⟩
    · rw [h] at he
      cases he
      exact .inl ⟨hf, rfl⟩
    · rw [h] at he
      cases he
      exact .inr ⟨hf, .inl ⟨_, k, info, .inl rfl, rfl⟩⟩

/-- Step 5 on a band row (40_tick.md R106). -/
theorem bandRow_spec (s : State) (hc : s.cfg.Ok) (hb : s.cfg.InBand s.vcounter.toNat) :
    ∃ m g px, px.length = s.cfg.width m ∧ AnswersInRange s.cfg px ∧
      (bandRow s).hist = s.hist ++ composerEvents s.cfg m g px ∧
      (∀ x (hx : x < px.length), (bandRow s).fbRead s.vcounter.toNat x = px[x].2) ∧
      (∀ y' x, x < 65536 → ¬(y' = s.vcounter.toNat ∧ x < s.cfg.width m) → (bandRow s).fbRead y' x = s.fbRead y' x) ∧
      (∀ y', (bandRow s).recRead y' = if y' = s.vcounter.toNat then .mode m else s.recRead y') ∧
      (bandRow s).usage = s.usage.mark m := by
  rw [bandRow, if_pos hb]; exact composeRow_spec _ s hc

/-- A counter is 0 exactly when its value is. -/
theorem State.vcounter_eq_zero (s : State) : (s.vcounter = 0) ↔ s.vcounter.toNat = 0 :=
  ⟨fun h => by rw [h]; rfl, fun h => BitVec.eq_of_toNat_eq h⟩

/-- What a line does to cells, record and usage flags: only its own row, and at a frame start the clearing of step 2
(40_tick.md R102, R106). -/
theorem endLine_band {s : State} (hc : s.cfg.Ok) :
    (∀ y x, x < 65536 → (¬ s.cfg.InBand s.vcounter.toNat ∨ y ≠ s.vcounter.toNat ∨ s.cfg.canonicalWidth ≤ x) →
      (endLine s).fbRead y x = s.fbRead y x) ∧
    (∀ y, (¬ s.cfg.InBand s.vcounter.toNat ∨ y ≠ s.vcounter.toNat) →
      (endLine s).recRead y = if s.vcounter.toNat = 0 then .unrec else s.recRead y) ∧
    (¬ s.cfg.InBand s.vcounter.toNat →
      (endLine s).usage = if s.vcounter.toNat = 0 then Usage.none else s.usage) ∧
    (s.cfg.InBand s.vcounter.toNat → ∃ m, (endLine s).recRead s.vcounter.toNat = .mode m ∧
      (endLine s).usage = (if s.vcounter.toNat = 0 then Usage.none else s.usage).mark m) := by
  have hv : (beforeBand s).vcounter = s.vcounter := by simp
  have hcfg : (beforeBand s).cfg = s.cfg := by simp
  have hfb : ∀ y x, (beforeBand s).fbRead y x = s.fbRead y x := State.fbRead_congr (by simp) hcfg
  by_cases hb : s.cfg.InBand s.vcounter.toNat
  · obtain ⟨m, g, px, -, -, -, -, h4, h5, h6⟩ :=
      bandRow_spec (beforeBand s) (by rw [hcfg]; exact hc) (by rw [hcfg, hv]; exact hb)
    rw [hv, hcfg] at h4
    rw [hv] at h5
    have hw := s.cfg.width_le_canonical m
    refine ⟨?_, ?_, fun h => absurd hb h, fun _ => ⟨m, ?_, ?_⟩⟩
    · intro y x hx hor
      rw [endLine_fbRead, h4 y x hx ?_, hfb]
      rintro ⟨rfl, h⟩
      rcases hor with h' | h' | h'
      · exact h' hb
      · exact h' rfl
      · omega
    · intro y hy
      rw [endLine_recRead, h5, if_neg ?_, beforeBand_recRead]
      · simp only [State.vcounter_eq_zero]
      · rintro rfl
        rcases hy with h' | h'
        · exact h' hb
        · exact h' rfl
    · rw [endLine_recRead, h5, if_pos rfl]
    · rw [endLine_usage, h6, beforeBand_usage]
      simp only [State.vcounter_eq_zero]
  · have hbr : bandRow (beforeBand s) = beforeBand s := by rw [bandRow, if_neg (by rw [hcfg, hv]; exact hb)]
    refine ⟨?_, ?_, ?_, fun h => absurd h hb⟩
    · intro y x _ _
      rw [endLine_fbRead, hbr, hfb]
    · intro y _
      rw [endLine_recRead, hbr, beforeBand_recRead]
      simp only [State.vcounter_eq_zero]
    · intro _
      rw [endLine_usage, hbr, beforeBand_usage]
      simp only [State.vcounter_eq_zero]

end Sys2Proof.Machine
end

