-- ==== Sys2Proof/Tests/Slice0.lean ====
section
/-! SUPPORT. The model's own tests: the checks on terms and configurations, words written out from the encodings, and,
for every statement with hypotheses, a concrete state and operands that meet them (`test_witness_…`). Expected results
are those of spec/95_test_vectors.md, whose row is named beside each test. -/

namespace Sys2Proof.Tests

open Sys2Proof Sys2Proof.Machine

/-! ## Fixtures (95_test_vectors.md section 0) -/

/-- T1. -/
def t1 : Cfg where
  dual := false
  lineCycles := 10
  preCycles := 3
  nominalLines := 5
  activeStart := 1
  activeHeight := 3
  w1 := 2
  w2 := 4
  w3 := 8
  bufW := 10
  bufH := 6
  colorBits := 16
  indexBits := 8

/-- T1D. -/
def t1d : Cfg := { t1 with dual := true }

/-- T2: a frame that ends inside the band. -/
def t2 : Cfg := { t1 with nominalLines := 3 }

/-- T3: a frame with no composed row. -/
def t3 : Cfg := { t1 with nominalLines := 1 }

/-- T1 with room for two extra lines and more. -/
def t1Tall : Cfg := { t1 with bufH := 8 }

/-- The load state with scripted answers. -/
def loaded (c : Cfg) (tape : List Int) : State := (State.initial c).setTape tape

/-- Oracle O1's answers for n columns of row y from column x on: index, then color. -/
def columnAnswers (y off gray : Int) : (x n : Nat) → List Int
  | _, 0 => []
  | x, n + 1 =>
    (10 * y + x + off) :: (10 * y + x + off + 0x100 + 0x8000 * gray) :: columnAnswers y off gray (x + 1) n

/-- Oracle O1's answers for row y composed at a mode: the mode (0 for W1, 1 for W2, 2 for W3), the grayscale sample,
then the columns. -/
def lineAnswers (y mode off gray : Int) (n : Nat) : List Int :=
  mode :: gray :: columnAnswers y off gray 0 n

/-- The outcome is a next state in which p holds. -/
def ran (o : Host.Outcome State Fault Refusal) (p : State → Bool) : Bool :=
  match o with
  | .next t => p t
  | .fault _ => false
  | .refused _ => false

/-- The columns 0 to n-1 of a row. -/
def rowOf (s : State) (y n : Nat) : List Color :=
  (List.range n).map (s.fbRead y)

/-- T1 inside a frame, on row 1 (after K1). -/
def onRow1 (tape : List Int) : State :=
  { loaded t1 tape with clock := 10, vcounter := 1 }

/-- T1 after four TICKs of a frame whose band rows are at W1 (the start of K4 to K9). -/
def onRow4 (tape : List Int) : State :=
  { loaded t1 tape with
    clock := 40, vcounter := 4, usage := ⟨true, false, false⟩, record := [(1, .w1), (2, .w1), (3, .w1)]
    fb := [(fbKey 1 0, 0x10A), (fbKey 1 1, 0x10B)] }

/-- T1 halted by a refused threshold (after K7). -/
def halted : State :=
  { onRow4 [] with
    clock := 50, vcounter := 5, status := ⟨false, true, false, false, 1, 0⟩, faults := [⟨.fatal, 1, -1⟩] }

/-- T1 in the read window of a uniform frame (after P1; row 2 only is listed). -/
def window : State :=
  { loaded t1 [] with
    clock := 50, usage := ⟨true, false, false⟩, record := [(1, .w1), (2, .w1), (3, .w1)], vp := ⟨0, 1, 2, 3⟩
    status := ⟨true, false, false, false, 0, 0⟩, fb := [(fbKey 2 0, 0x114), (fbKey 2 1, 0x115)] }

/-- T2 on row 2, the last line of its frame, with row 1 composed at W1 and row 2 to come at W3 (P4 before TICK 3). -/
def lastBandRow : State :=
  { loaded t2 (lineAnswers 2 2 0 0 8 ++ [0]) with
    clock := 20, vcounter := 2, usage := ⟨true, false, false⟩, record := [(1, .w1)]
    fb := [(fbKey 1 0, 0x10A), (fbKey 1 1, 0x10B)] }

/-- T1 at the wrap of N3: rows 1, 2 and 3 at W1, W2 and W3. -/
def mixed : State :=
  { loaded t1 [] with
    usage := ⟨true, true, true⟩, record := [(1, .w1), (2, .w2), (3, .w3)]
    fb := [(fbKey 1 0, 0xA), (fbKey 1 1, 0xB), (fbKey 2 0, 0xA), (fbKey 2 1, 0xB), (fbKey 2 2, 0xC), (fbKey 2 3, 0xD),
      (fbKey 3 0, 0xE), (fbKey 3 7, 0xF)] }

/-- T1 at the wrap of N4: row 2 at W1, rows 1 and 3 at W3. -/
def oneNarrow : State :=
  { loaded t1 [] with
    usage := ⟨true, false, true⟩, record := [(1, .w3), (2, .w1), (3, .w3)]
    fb := [(fbKey 1 0, 0xE), (fbKey 2 0, 0xA), (fbKey 2 1, 0xB), (fbKey 3 7, 0xF)] }

/-! ## Well-formed terms and configurations -/

/-- Words of the legal formats are no ILLEGAL term: one for each check of `legalWord`. -/
theorem test_illegal_terms_refused :
    (Instr.illegal 0x10000000#32).wellFormed = false ∧ (Instr.illegal 0x20000000#32).wellFormed = false ∧
    (Instr.illegal 0x3FFFFFFF#32).wellFormed = false ∧ (Instr.illegal 0x40000009#32).wellFormed = false ∧
    (Instr.illegal 0x50003FFF#32).wellFormed = false := by decide

/-- The words just beyond each check are ILLEGAL terms (section 2.1). -/
theorem test_illegal_terms_accepted :
    (Instr.illegal 0x10000001#32).wellFormed = true ∧ (Instr.illegal 0x2FFFFFFF#32).wellFormed = true ∧
    (Instr.illegal 0x4000000A#32).wellFormed = true ∧ (Instr.illegal 0x40000100#32).wellFormed = true ∧
    (Instr.illegal 0x50004000#32).wellFormed = true ∧ (Instr.illegal 0x60000000#32).wellFormed = true ∧
    (Instr.illegal 0x00000000#32).wellFormed = true := by decide

/-- For each check of 00_scope.md R8 a configuration that fails it first. -/
theorem test_configurations_refused :
    Cfg.failing { t1 with lineCycles := 0, preCycles := 0 } = some .cfgLine ∧
    Cfg.failing { t1 with preCycles := 11 } = some .cfgPre ∧
    Cfg.failing { t1 with nominalLines := 7 } = some .cfgLines ∧
    Cfg.failing { t1 with activeHeight := 6 } = some .cfgBand ∧
    Cfg.failing { t1 with w2 := 2 } = some .cfgWidths ∧
    Cfg.failing { t1 with bufW := 7 } = some .cfgFit ∧
    Cfg.failing { t1 with w2 := 3 } = some .cfgExact ∧
    Cfg.failing { t1 with colorBits := 33 } = some .cfgColor := by decide

/-- The configurations of section 0 pass every check. -/
theorem test_configurations_accepted :
    t1.Ok ∧ t1d.Ok ∧ t2.Ok ∧ t3.Ok ∧ t1Tall.Ok ∧ Cfg.Ok { t1 with preCycles := 0 } ∧
    Cfg.Ok { t1 with preCycles := 10 } ∧ Config.atReset.Ok := by decide

/-! ## Decoding: words written out bit by bit from the formats of 30_encoding.md R71 -/

theorem test_decode_tick : decode 0b0001_0000000000000000000000000000#32 = .tick := by decide

theorem test_decode_power : decode 0b0010_0000000000000000000000000000#32 = .power := by decide

theorem test_decode_rdpix :
    decode 0b0011_00000000010101_00000111111111#32 = .rdpix 511 21 ∧
    decode 0b0011_11111111111111_00000000000000#32 = .rdpix 0 16383 := by decide

theorem test_decode_rdreg :
    decode 0b0100_00000000000000000000_00001001#32 = .rdreg .frameLines ∧
    decode 0b0100_00000000000000000000_00000111#32 = .rdreg .clockLo ∧
    decode 0b0100_00000000000000000000_00001010#32 = .illegal 0x4000000A#32 := by decide

theorem test_decode_rdrec :
    decode 0b0101_00000000000000_00000000010101#32 = .rdrec 21 ∧
    decode 0b0101_00000000000001_00000000000000#32 = .illegal 0x50004000#32 := by decide

theorem test_decode_illegal :
    decode 0b0000_0000000000000000000000000000#32 = .illegal 0 ∧
    decode 0b0111_1111111111111111111111111111#32 = .illegal 0x7FFFFFFF#32 ∧
    decode 0b0001_1000000000000000000000000000#32 = .illegal 0x18000000#32 := by decide

/-- The rows of spec/opcode_table.json, and byte 0 as the low byte (20_memory.md R53). -/
theorem test_decode_table_rows :
    decodeTableWord 32 0x10000000 = some .tick ∧ decodeTableWord 32 0x20000000 = some .power ∧
    decodeTableWord 32 0x30000000 = some (.rdpix 0 0) ∧ decodeTableWord 32 0x40000000 = some (.rdreg .status) ∧
    decodeTableWord 32 0x50000000 = some (.rdrec 0) ∧ decodeTableWord 32 0xF0000000 = some (.illegal 0xF0000000#32) ∧
    decodeBytes [0x03, 0x40, 0x00, 0x30] = .ok (.rdpix 3 1, []) := by decide

/-- The first step after reset runs the word placed there (K1, H13 and F7 by their effects). -/
theorem test_first_step_after_reset :
    ran (step (State.reset.withFetchWord 32 0x10000000)) (fun t => t.vcounter == 1 && t.clock == 10) = true ∧
    ran (step (State.reset.withFetchWord 32 0x20000000)) (fun t => t.hist.length == 3) = true ∧
    ran (step (State.reset.withFetchWord 32 0x40000000)) (fun t => t.resp == 0) = true ∧
    ran (step (State.reset.withFetchWord 32 0x50000015)) (fun t => t.resp == 0 && !t.status.range) = true ∧
    ran (step (State.reset.withFetchWord 32 0x3FFFFFFF)) (fun t => t.status.range) = true ∧
    ran (step (State.reset.withFetchWord 32 0x60000000)) (fun t => t.faults == [⟨.illegal, 0, 0x60000000⟩]) = true := by
  decide

/-! ## The invariant holds in states inside a frame -/

theorem test_inv_loaded (tape : List Int) (c : Cfg) (h : c = t1 ∨ c = t3) : EngineInv (loaded c tape) := by
  have hr : ∀ y, (loaded c tape).recRead y = .unrec := fun _ => rfl
  refine ⟨?_, by simp [loaded, State.initial], by simp [loaded, State.initial], fun e he => (nomatch he), ?_, rfl,
    fun _ => ⟨rfl, ?_, fun y _ => hr y, fun m => ?_, fun h => (nomatch h), fun h => absurd rfl h,
      fun _ _ h => absurd h (Nat.not_lt_zero _)⟩⟩
  · rcases h with rfl | rfl
    · exact (by decide : t1.Ok)
    · exact (by decide : t3.Ok)
  · exact ⟨by simp [loaded, State.initial], by simp [loaded, State.initial]⟩
  · rcases h with rfl | rfl
    · exact .inl ⟨rfl, (by decide : 0 < t1.nominalLines)⟩
    · exact .inl ⟨rfl, (by decide : 0 < t3.nominalLines)⟩
  · constructor
    · intro h
      cases m <;> cases h
    · rintro ⟨y, -, h⟩
      rw [hr] at h
      cases h

theorem test_inv_onRow4 (tape : List Int) : EngineInv (onRow4 tape) := by
  have hr : ∀ y, (onRow4 tape).recRead y = if 1 ≤ y ∧ y < 4 then .mode .w1 else .unrec := by
    intro y
    simp only [State.recRead, onRow4, Memory.lookup]
    by_cases h1 : y = 1
    · subst h1
      rfl
    · by_cases h2 : y = 2
      · subst h2
        rfl
      · by_cases h3 : y = 3
        · subst h3
          rfl
        · simp only [if_neg h1, if_neg h2, if_neg h3]
          rw [if_neg (by omega)]
  refine ⟨?_, ?_, ?_, ?_, ?_, rfl,
    fun _ => ⟨rfl, .inl ⟨rfl, ?_⟩, ?_, ?_, fun h => (nomatch h), ?_, ?_⟩⟩
  · show t1.Ok
    decide
  · show Memory.wf [(fbKey 1 0, (0x10A : Color)), (fbKey 1 1, 0x10B)]
    decide
  · show Memory.wf [(1, Mode.w1), (2, .w1), (3, .w1)]
    decide
  · intro e he
    have : e ∈ [(fbKey 1 0, (0x10A : Color)), (fbKey 1 1, 0x10B)] := he
    simp only [List.mem_cons, List.not_mem_nil, or_false] at this
    show e.1 / 65536 < t1.bufH ∧ e.1 % 65536 < t1.bufW ∧ e.2.toNat < 2 ^ t1.colorBits
    rcases this with rfl | rfl <;> decide
  · exact ⟨by simp [onRow4, loaded, State.initial], by simp [onRow4, loaded, State.initial]⟩
  · show 4 < 5
    decide
  · intro y hy
    rw [hr, if_neg]
    exact hy
  · intro m
    constructor
    · intro h
      cases m
      · exact ⟨1, (by decide : t1.InBand 1), by rw [hr]; rfl⟩
      · cases h
      · cases h
    · rintro ⟨y, -, h⟩
      rw [hr] at h
      split at h
      · cases h
        rfl
      · cases h
  · intro _ y hy
    have hy' : 4 ≤ y := hy
    rw [hr, if_neg (by omega)]
  · intro y hb _
    have hb' : 1 ≤ y ∧ y < 4 := hb
    rw [hr, if_pos hb']
    exact fun h => (nomatch h)

/-! ## Witnesses: encoding -/

theorem test_witness_DecodeEncodeRoundTrip :
    Instr.tick.wellFormed = true ∧ Instr.power.wellFormed = true ∧ (Instr.rdpix 16383 16383).wellFormed = true ∧
    (Instr.rdreg .frameLines).wellFormed = true ∧ (Instr.rdrec 16383).wellFormed = true ∧
    (Instr.illegal 0x4000000A#32).wellFormed = true := by decide

/-- The lowest and the highest reserved bit of each format. -/
theorem test_witness_ReservedBitSetIsIllegal :
    (∀ w ∈ [0x10000001#32, 0x18000000#32, 0x20000001#32, 0x28000000#32],
      (w.extractLsb' 28 4 = 1#4 ∨ w.extractLsb' 28 4 = 2#4) ∧ w.extractLsb' 0 28 ≠ 0#28) ∧
    (∀ w ∈ [0x40000100#32, 0x48000000#32], w.extractLsb' 28 4 = 4#4 ∧ w.extractLsb' 8 20 ≠ 0#20) ∧
    (∀ w ∈ [0x50004000#32, 0x58000000#32], w.extractLsb' 28 4 = 5#4 ∧ w.extractLsb' 14 14 ≠ 0#14) := by
  refine ⟨?_, ?_, ?_⟩ <;> simp only [List.forall_mem_cons, List.not_mem_nil, false_imp_iff, implies_true, and_true] <;> decide

theorem test_witness_OperandsAreTheFields :
    decode 0x3FFFFFFF#32 = .rdpix 16383 16383 ∧ decode 0x40000009#32 = .rdreg .frameLines ∧
    decode 0x50003FFF#32 = .rdrec 16383 := by decide

/-! ## Witnesses: step, load, POWER, invariants -/

theorem test_witness_StepRunsDecodedCommand :
    (State.reset.setCmds [0x10000000#32, 0x20000000#32]).cfg.Ok ∧
    (State.reset.setCmds [0x10000000#32, 0x20000000#32]).cmds = 0x10000000#32 :: [0x20000000#32] ∧
    State.reset.cfg.Ok ∧ State.reset.cmds = [] ∧
    (State.initial { t1 with bufW := 7 }).cfg.failing = some .cfgFit := by decide

theorem test_witness_LoadAndPowerValues :
    Cfg.failing { t1 with preCycles := 11 } = some .cfgPre ∧ t1.Ok ∧ t1d.Ok := by decide

/-- H13: the power calls in both modes, and F10: the fault log stays. -/
theorem test_power :
    ran (exec .power halted) (fun t => t.hist == [.powerc .a, .powerc .vce, .powerc .dma] &&
      t.faults == [⟨.fatal, 1, -1⟩] && t.statusWord == 0) = true ∧
    ran (exec .power (loaded t1d [])) (fun t =>
      t.hist == [.powerc .a, .powerc .b, .powerc .comb, .powerc .vce, .powerc .dma] && t.statusWord == 0x10) = true := by
  decide

theorem test_witness_StepKeepsInv :
    EngineInv ((onRow4 [0]).setCmds [0x10000000#32]) ∧
    ran (step ((onRow4 [0]).setCmds [0x10000000#32])) (fun t => t.status.fr) = true := by
  refine ⟨?_, by decide⟩
  have h := test_inv_onRow4 [0]
  exact ⟨h.cfgOk, h.fbWf, h.recordWf, h.cells, h.cause, h.vpX,
    fun hf => ⟨(h.running hf).inv1, (h.running hf).inv2, (h.running hf).inv3, (h.running hf).inv4,
      (h.running hf).inv5, (h.running hf).ahead, (h.running hf).behind⟩⟩

/-- Both cases: no fault (K4), and Fatal(1) with the latch due (K7). -/
theorem test_witness_OnlyThresholdFaultIsReachable :
    (EngineInv (onRow4 [0]) ∧ ran (exec .tick (onRow4 [0])) (fun t => t.faults == []) = true) ∧
    (EngineInv (onRow4 [-1]) ∧ ran (exec .tick (onRow4 [-1])) (fun t => t.faults == [⟨.fatal, 1, -1⟩]) = true) :=
  ⟨⟨test_inv_onRow4 _, by decide⟩, ⟨test_inv_onRow4 _, by decide⟩⟩

/-- For NoCommandWritesConfiguration and LogsOnlyGrow: every command has a next state, with and without a new fault. -/
theorem test_witness_NoCommandWritesConfiguration :
    (∀ i ∈ [Instr.tick, .power, .rdpix 10 0, .rdreg .vpW, .rdrec 6, .illegal 0],
      ran (exec i (onRow4 [0])) (fun t => t.cfg == t1) = true) := by decide

theorem test_witness_SingleChipModeNeverNamesChipB :
    (onRow1 (lineAnswers 1 0 0 0 2)).cfg.dual = false ∧
    ran (exec .tick (onRow1 (lineAnswers 1 0 0 0 2))) (fun t => t.hist.length == 11) = true ∧
    ran (exec .power (onRow1 [])) (fun t => t.hist.length == 3) = true := by decide

/-! ## Witnesses: TICK -/

/-- K1 and K2: the first TICK in both modes. -/
theorem test_tick_first :
    ran (exec .tick (loaded t1 [])) (fun t => t.clock == 10 && t.hcounter == 0 && t.vcounter == 1 &&
      t.hist == [.hsync .a, .vsync .a, .dma 3, .hclock .a, .dma 7, .vclock .a]) = true ∧
    ran (exec .tick (loaded t1d [])) (fun t => t.hist == [.hsync .a, .hsync .b, .vsync .a, .vsync .b, .dma 3,
      .hclock .a, .hclock .b, .dma 7, .vclock .a, .vclock .b]) = true := by decide

/-- K13: a frame with no composed row (T3), and K16: the clock wraps. -/
theorem test_tick_wraps :
    ran (exec .tick (loaded t3 [0])) (fun t => t.vcounter == 0 && t.status.fr && t.status.diag == 3 &&
      t.vp == ⟨0, 1, 8, 3⟩ && t.hist == [.hsync .a, .vsync .a, .dma 3, .hclock .a, .dma 7, .vclock .a, .extra 0,
        .diag 1, .diag 2, .diag 3, .frameDone]) = true ∧
    ran (exec .tick ((loaded t1 []).setClock 0xFFFFFFFFFFFFFFFC)) (fun t => t.clock == 6) = true := by decide

/-- K10, K14, K15 and a legal entry; K14 and K15 give their cause and record. -/
theorem test_witness_TickEntryChecks :
    halted.status.fatal = true ∧
    ran (exec .tick halted) (fun t => t == halted) = true ∧
    ran (exec .tick ((loaded t1 []).setHcounter 3)) (fun t => t.faults == [⟨.fatal, 4, 3⟩]) = true ∧
    ((loaded t1 []).setVcounter 5).status.fatal = false ∧ ((loaded t1 []).setVcounter 5).hcounter.toNat = 0 ∧
    ¬ Inv2 ((loaded t1 []).setVcounter 5) ∧
    ran (exec .tick ((loaded t1 []).setVcounter 5)) (fun t => t.faults == [⟨.fatal, 3, 5⟩]) = true ∧
    EntryOk (loaded t1 []) := by decide

/-- One state for each clause: a line below the nominal count, the latch with 1 (K5) and with 0 (K4), a line between
the nominal count and the threshold, and the last line of a lengthened frame (K6). -/
theorem test_witness_TickCompletes :
    (∀ s ∈ [loaded t1 [], onRow4 [1], onRow4 [0], ((loaded t1Tall []).setVcounter 5).setFrameLines 7,
        ((loaded t1 []).setVcounter 5).setFrameLines 6],
      s.cfg.Ok ∧ EntryOk s ∧ ThresholdOk s) ∧
    (LatchDue (onRow4 [1]) ∧ extraAnswer (onRow4 [1]) = 1) ∧
    (LatchDue (onRow4 [0]) ∧ extraAnswer (onRow4 [0]) = 0) ∧
    ran (exec .tick (onRow4 [1])) (fun t => t.vcounter == 5 && t.frameLines == 6 && !t.status.fr) = true ∧
    ran (exec .tick (((loaded t1 []).setVcounter 5).setFrameLines 6))
      (fun t => t.vcounter == 0 && t.frameLines == 0 && t.status.fr) = true := by decide

/-- K7 and K8: the two refused answers nearest the legal range 0 to 1. -/
theorem test_witness_BadThresholdIsFatal :
    (∀ a ∈ [-1, 2], (onRow4 [a]).cfg.Ok ∧ EntryOk (onRow4 [a]) ∧ LatchDue (onRow4 [a]) ∧
      (extraAnswer (onRow4 [a]) < 0 ∨ (onRow4 [a]).cfg.nominalLines + extraAnswer (onRow4 [a]) > (onRow4 [a]).cfg.bufH)) ∧
    ran (exec .tick (onRow4 [2])) (fun t => t.vcounter == 5 && t.frameLines == 0 && t.clock == 50 &&
      t.statusWord == 0x122 && t.faults == [⟨.fatal, 1, 2⟩]) = true := by decide

theorem test_witness_FatalFaultStopsTheTick :
    (onRow4 [-1]).status.fatal = false ∧ ran (exec .tick (onRow4 [-1])) (fun t => t.status.fatal) = true ∧
    ((loaded t1 []).setHcounter 3).status.fatal = false ∧
    ran (exec .tick ((loaded t1 []).setHcounter 3)) (fun t => t.status.fatal) = true := by decide

theorem test_witness_TickCycleAccounting :
    (onRow4 [0]).cfg.Ok ∧ (onRow4 [0]).status.fatal = false ∧
    ran (exec .tick (onRow4 [0])) (fun t => t.faults == (onRow4 [0]).faults) = true := by decide

/-- K3 (a composed line, out of the latch), K4 (the latch and a uniform wrap, out of the band), P4 (a mixed wrap: its
one UNREC band row is reported). -/
theorem test_witness_TickEventSequence :
    (onRow1 (lineAnswers 1 0 0 0 2)).cfg.InBand (onRow1 (lineAnswers 1 0 0 0 2)).vcounter.toNat ∧
    ¬ LatchDue (onRow1 (lineAnswers 1 0 0 0 2)) ∧
    ran (exec .tick (onRow1 (lineAnswers 1 0 0 0 2))) (fun t => t.faults == [] && !t.status.fr &&
      t.hist == [.hsync .a, .dma 3, .hclock .a, .widthq .w1, .grayq false, .index .a 0 0x0A, .resolve false 0x0A 0x10A,
        .index .a 1 0x0B, .resolve false 0x0B 0x10B, .dma 7, .vclock .a]) = true ∧
    LatchDue (onRow4 [0]) ∧ ¬ (onRow4 [0]).cfg.InBand (onRow4 [0]).vcounter.toNat ∧
    ran (exec .tick (onRow4 [0])) (fun t => t.faults == [] && t.status.fr &&
      t.usage.count == 1 &&
      t.hist == [.hsync .a, .dma 3, .hclock .a, .dma 7, .vclock .a, .extra 0, .frameDone]) = true ∧
    ran (exec .tick lastBandRow) (fun t => t.faults == [] && t.status.fr && t.usage.count == 2 &&
      t.hist.drop 23 == [.extra 0, .diag 3, .frameDone]) = true := by decide

/-- K3: the cells, the record entry and the flag; and P4's TICK 3, which ends the frame on a band row. -/
theorem test_witness_TickComposesBandRow :
    (onRow1 (lineAnswers 1 0 0 0 2)).cfg.Ok ∧ EntryOk (onRow1 (lineAnswers 1 0 0 0 2)) ∧
    (onRow1 (lineAnswers 1 0 0 0 2)).cfg.InBand (onRow1 (lineAnswers 1 0 0 0 2)).vcounter.toNat ∧
    ran (exec .tick (onRow1 (lineAnswers 1 0 0 0 2))) (fun t => !t.status.fr && t.vcounter == 2 && t.clock == 20 &&
      rowOf t 1 2 == [0x10A, 0x10B] && t.recRead 1 == .mode .w1 && t.usage == ⟨true, false, false⟩) = true ∧
    lastBandRow.cfg.Ok ∧ EntryOk lastBandRow ∧ lastBandRow.cfg.InBand lastBandRow.vcounter.toNat ∧
    ran (exec .tick lastBandRow) (fun t => t.status.fr && t.recRead 2 == .mode .w3 && t.usage.w3) = true := by decide

/-- A uniform frame (K4), a mixed one (P4 after TICK 3) and an empty one (K13). -/
theorem test_witness_TickNormalizesAtWrap :
    (∀ s ∈ [onRow4 [0], lastBandRow, loaded t3 [0]], s.cfg.Ok ∧ EntryOk s) ∧
    ((tickLine (onRow4 [0])).state.usage.count = 1 ∧ (tickLine (onRow4 [0])).state.usage.get .w1 = true) ∧
    (tickLine lastBandRow).state.usage.count ≠ 1 ∧ (tickLine (loaded t3 [0])).state.usage.count ≠ 1 ∧
    ran (exec .tick (onRow4 [0])) (fun t => t.status.fr && t.vp == ⟨0, 1, 2, 3⟩) = true ∧
    ran (exec .tick lastBandRow) (fun t => t.status.fr && t.vp == ⟨0, 1, 8, 3⟩ && t.status.diag == 1 &&
      rowOf t 1 8 == [0x10A, 0x10A, 0x10A, 0x10A, 0x10B, 0x10B, 0x10B, 0x10B] &&
      rowOf t 2 8 == [0x114, 0x115, 0x116, 0x117, 0x118, 0x119, 0x11A, 0x11B]) = true ∧
    ran (exec .tick (loaded t3 [0])) (fun t => t.status.fr && t.vp == ⟨0, 1, 8, 3⟩ && t.status.diag == 3) = true := by
  decide

/-- A TICK that does not end the frame and one that does, away from the frame start and out of the band. -/
theorem test_witness_TickFrame :
    t1.Ok ∧ ran (exec .tick (onRow1 (lineAnswers 1 0 0 0 2))) (fun t => !t.status.fr) = true ∧
    ran (exec .tick (onRow4 [0])) (fun t => t.status.fr) = true ∧ (onRow4 [0]).vcounter.toNat ≠ 0 ∧
    ¬ t1.InBand (onRow4 [0]).vcounter.toNat ∧ ¬ t1.InBand 0 ∧ t1.canonicalWidth ≤ 8 := by decide

/-- The read window's state: the flags and the record of the last frame are still set. -/
theorem test_witness_FrameStartClearsRecordAndUsage :
    window.cfg.Ok ∧ EntryOk window ∧ window.vcounter.toNat = 0 ∧ window.recRead 1 = .mode .w1 ∧
    ran (exec .tick window) (fun t => t.recRead 1 == .unrec && t.usage == ⟨false, false, false⟩) = true := by decide

theorem test_witness_ClockCountsTicks :
    t1.Ok ∧ NoFault (runTicks 1 (((State.initial t1).setTape []).setDraws 0)) := by decide

/-- T3 with an answer of 0 and of 1. -/
theorem test_witness_FramePeriod :
    (∀ a : Int, EngineInv (loaded t3 [a])) ∧
    (∀ a ∈ [(0 : Int), 1], (loaded t3 [a]).status.fatal = false ∧ (loaded t3 [a]).vcounter.toNat = 0 ∧
      (loaded t3 [a]).frameLines.toNat = 0 ∧
      (runTicks (loaded t3 [a]).cfg.nominalLines (loaded t3 [a])).faults = (loaded t3 [a]).faults) :=
  ⟨fun a => test_inv_loaded [a] t3 (.inr rfl), by decide⟩

/-! ## Witnesses: the Composer and the Normalizer -/

/-- The flow goes on to a state in which p holds. -/
def goes (f : Flow) (p : State → Bool) : Bool :=
  match f with
  | .go t => p t
  | .stop _ => false

/-- M2 and M3: a dual-chip line, and one with the grayscale sample set. -/
theorem test_witness_ComposeWritesTheRow :
    t1d.Ok ∧ t1d.InBand ((loaded t1d (lineAnswers 1 1 0x40 0 4)).setVcounter 1).vcounter.toNat ∧
    goes (compose ((loaded t1d (lineAnswers 1 1 0x40 0 4)).setVcounter 1)) (fun t =>
      rowOf t 1 4 == [0x14A, 0x14B, 0x14C, 0x14D] && t.recRead 1 == .mode .w2 && t.hist.length == 11 &&
      t.hist.take 4 == [.widthq .w2, .grayq false, .render, .index .comb 0 0x4A]) = true ∧
    goes (compose ((loaded t1d (lineAnswers 2 1 0x40 1 4)).setVcounter 2)) (fun t =>
      rowOf t 2 4 == [0x8154, 0x8155, 0x8156, 0x8157]) = true := by decide

/-- M6, and the rows at both edges of the band 1 to 3. -/
theorem test_witness_ComposeOutsideBandIsFatal :
    ¬ t1.InBand ((loaded t1 []).setVcounter 0).vcounter.toNat ∧ t1.InBand 1 ∧ t1.InBand 3 ∧
    ¬ t1.InBand ((loaded t1 []).setVcounter 4).vcounter.toNat ∧
    (compose ((loaded t1 []).setVcounter 0)).state.faults = [⟨.fatal, 2, 0⟩] := by decide

theorem test_witness_RecomposingIsIdempotent : (onRow1 (lineAnswers 1 0 0 0 2)).cfg.Ok := by decide

/-- N4's backward trace: k = 4, w = 2. -/
theorem test_witness_StretchInPlaceEqualsScratch :
    1 ≤ 4 ∧ 2 * 4 ≤ 65536 ∧
    rowOf (stretch 2 2 4 oneNarrow) 2 8 = [0xA, 0xA, 0xA, 0xA, 0xB, 0xB, 0xB, 0xB] := by decide

/-- N1. -/
theorem test_witness_UniformFrameIsCropped :
    window.cfg.Ok ∧ window.usage.count = 1 ∧ window.usage.get .w1 = true ∧
    (normalizeFrame window).vp = ⟨0, 1, 2, 3⟩ ∧ (normalizeFrame window).fb = window.fb := by decide

/-- The wrap of P4: T2, row 3 not reached; row 2 is composed by the TICK that ends the frame. -/
theorem test_witness_UnreachedRowsAreUnrec :
    EngineInv (onRow4 [0]) ∧ (onRow4 [0]).status.fatal = false ∧
    ran (exec .tick (onRow4 [0])) (fun t => t.status.fr && t.recRead 3 == .mode .w1) = true ∧
    ran (exec .tick lastBandRow) (fun t => t.status.fr && t.recRead 1 == .mode .w1 && t.recRead 2 == .mode .w3 && t.recRead 3 == .unrec) = true :=
  ⟨test_inv_onRow4 _, by decide⟩

/-- The wrap of K4: every band row at W1. -/
theorem test_witness_FrameOfOneModeRoundTrips :
    EngineInv (onRow4 [0]) ∧ (onRow4 [0]).status.fatal = false ∧
    ran (exec .tick (onRow4 [0])) (fun t => t.status.fr && t.vp == ⟨0, 1, 2, 3⟩) = true ∧
    (∀ t, exec .tick (onRow4 [0]) = .next t → ∀ y, (onRow4 [0]).cfg.InBand y → t.recRead y = .mode .w1) := by
  refine ⟨test_inv_onRow4 _, by decide, by decide, ?_⟩
  intro t he y hy
  have hr : t.record = [(1, .w1), (2, .w1), (3, .w1)] := by
    cases he
    decide
  have h1 : 1 ≤ y := hy.1
  have h3 : y < 4 := hy.2
  have : y = 1 ∨ y = 2 ∨ y = 3 := by omega
  rcases this with rfl | rfl | rfl <;> simp [State.recRead, hr, Memory.lookup]

/-- N3: rows 1 and 2 stretched by 4 and 2. -/
theorem test_witness_MixedFrameIsStretched :
    mixed.cfg.Ok ∧ mixed.usage.count ≠ 1 ∧
    rowOf (normalizeFrame mixed) 1 8 = [0xA, 0xA, 0xA, 0xA, 0xB, 0xB, 0xB, 0xB] ∧
    rowOf (normalizeFrame mixed) 2 8 = [0xA, 0xA, 0xB, 0xB, 0xC, 0xC, 0xD, 0xD] ∧
    (normalizeFrame mixed).vp = ⟨0, 1, 8, 3⟩ ∧ (normalizeFrame mixed).hist = [] := by decide

/-- N6. -/
theorem test_witness_EmptyFrameReportsEveryRow :
    (loaded t3 []).cfg.Ok ∧ Inv4 (loaded t3 []) ∧ (loaded t3 []).usage = ⟨false, false, false⟩ ∧
    (normalizeFrame (loaded t3 [])).hist = [.diag 1, .diag 2, .diag 3] :=
  ⟨by decide, ((test_inv_loaded [] t3 (.inr rfl)).running rfl).inv4, by decide, by decide⟩

/-- A uniform frame and a mixed one. -/
theorem test_witness_NormalizerFrame :
    window.cfg.Ok ∧ window.usage.count = 1 ∧ mixed.cfg.Ok ∧ mixed.usage.count ≠ 1 ∧ ¬ mixed.cfg.InBand 4 := by decide

/-- N4. -/
theorem test_witness_OneNarrowRowIsReplicated :
    oneNarrow.cfg.Ok ∧ oneNarrow.usage.count ≠ 1 ∧ oneNarrow.cfg.InBand 2 ∧ oneNarrow.recRead 2 = .mode .w1 ∧
    oneNarrow.cfg.width .w3 = oneNarrow.cfg.canonicalWidth ∧
    (∀ y, oneNarrow.cfg.InBand y → y ≠ 2 → oneNarrow.recRead y = .mode .w3) ∧
    rowOf (normalizeFrame oneNarrow) 2 8 = [0xA, 0xA, 0xA, 0xA, 0xB, 0xB, 0xB, 0xB] := by
  refine ⟨by decide, by decide, by decide, by decide, by decide, ?_, by decide⟩
  intro y hy hne
  have h1 : 1 ≤ y := hy.1
  have h3 : y < 4 := hy.2
  have : y = 1 ∨ y = 3 := by omega
  rcases this with rfl | rfl <;> rfl

/-! ## Witnesses: the reads and ILLEGAL -/

/-- H4 and H9, and the first coordinates beyond each bound. -/
theorem test_witness_RdpixResult :
    (HasCell window.cfg 9 5 ∧ window.status.fr = true) ∧
    (HasCell (loaded t1 []).cfg 0 1 ∧ (loaded t1 []).status.fr = false) ∧
    (¬ HasCell window.cfg 10 0 ∧ ¬ HasCell window.cfg 0 6) ∧
    ran (exec (.rdpix 1 2) window) (fun t => t.resp == 0x115) = true ∧
    ran (exec (.rdpix 10 0) window) (fun t => t.resp == 0 && t.faults == [⟨.range, 0, 0x3000000A⟩]) = true := by decide

/-- H1, H2 and H3 in the window; H12 outside it. -/
theorem test_witness_RdregResult :
    (window.status.fr = true ∧ (onRow1 []).status.fr = false) ∧
    ran (exec (.rdreg .status) window) (fun t => t.resp == 0x21) = true ∧
    ran (exec (.rdreg .vpW) window) (fun t => t.resp == 2) = true ∧
    ran (exec (.rdreg .clockLo) window) (fun t => t.resp == 0x32) = true ∧
    ran (exec (.rdreg .vcounter) (onRow1 [])) (fun t => t.resp == 1) = true ∧
    ((0x4000000A#32).extractLsb' 8 24 = 0x400000#24 ∧ 10 ≤ ((0x4000000A#32).extractLsb' 0 8).toNat) := by decide

/-- H6, H7 and H8: the last row of the record and the first index beyond it. -/
theorem test_witness_RdrecResult :
    HasRow window.cfg 5 ∧ ¬ HasRow window.cfg 6 ∧
    ran (exec (.rdrec 1) window) (fun t => t.resp == 1) = true ∧
    ran (exec (.rdrec 0) window) (fun t => t.resp == 0) = true ∧
    ran (exec (.rdrec 6) window) (fun t => t.resp == 0 && t.faults == [⟨.range, 0, 0x50000006⟩]) = true := by decide

theorem test_witness_RecordOutsideBandReadsZero :
    EngineInv (onRow4 []) ∧ (onRow4 []).status.fatal = false ∧ (0 : BitVec 14).toNat < (onRow4 []).cfg.bufH ∧
    ¬ (onRow4 []).cfg.InBand (0 : BitVec 14).toNat ∧ (5 : BitVec 14).toNat < (onRow4 []).cfg.bufH ∧
    ¬ (onRow4 []).cfg.InBand (5 : BitVec 14).toNat :=
  ⟨test_inv_onRow4 [], by decide⟩

/-- Both kinds of Range fault, and the sticky bit. -/
theorem test_witness_RangeFault :
    (decode 0x3000000A#32 = .rdpix 10 0 ∧ ¬ HasCell window.cfg 10 0) ∧
    (decode 0x50000006#32 = .rdrec 6 ∧ ¬ HasRow window.cfg 6) ∧
    ran (exec .tick (window.setStatus { window.status with range := true })) (fun t => t.status.range) = true := by decide

/-- F7, and the sticky bit. -/
theorem test_witness_IllegalCommand :
    decode 0x4000000A#32 = .illegal 0x4000000A#32 ∧
    ran (exec (.illegal 0x4000000A#32) window) (fun t => t.status.ill && t.resp == window.resp &&
      t.faults == [⟨.illegal, 0, 0x4000000A⟩]) = true ∧
    ran (exec .tick (window.setStatus { window.status with ill := true })) (fun t => t.status.ill) = true := by decide

/-- For ReadsChangeOnlyTheResponse and ReadsAreIdempotent: each read, in the window and outside it (H14). -/
theorem test_witness_ReadsAreIdempotent :
    (∀ i ∈ [Instr.rdpix 1 2, .rdreg .vpW, .rdrec 1],
      isReadCommand i = true ∧ window.status.fr = true ∧ ran (exec i window) (fun t => ran (exec i t) fun _ => true) = true) ∧
    isViewportReg .status = false ∧ ran (exec (.rdreg .status) (onRow1 [])) (fun _ => true) = true := by decide

theorem test_witness_ResponseRegisterWriters :
    isReadCommand (.rdrec 1) = true ∧ ran (exec .power window) (fun t => t.resp == 0) = true ∧
    ran (exec .tick (window.setResp 7)) (fun t => t.resp == 7) = true ∧
    ran (exec (.illegal 0) (window.setResp 7)) (fun t => t.resp == 7) = true := by decide

/-- The largest color and the last cell, the window closed and open (H10, H11). -/
theorem test_witness_ReadWindow :
    (onRow1 []).status.fr = false ∧ HasCell (onRow1 []).cfg 9 5 ∧ (0xFFFF : Color).toNat < 2 ^ (onRow1 []).cfg.colorBits ∧
    isViewportReg .vpH = true ∧ window.status.fr = true ∧ HasCell window.cfg 9 5 ∧
    ran (exec (.rdpix 9 5) (onRow1 [0xFFFF])) (fun t => t.resp == 0xFFFF) = true := by decide

/-- For HaltedState and FatalStaysUntilPower: the state after K7, a read in it with FATAL clear, and K10. -/
theorem test_witness_HaltedState :
    halted.status.fatal = true ∧ halted.status.cause ≠ 0 ∧ halted.cfg.Ok ∧ isReadCommand (.rdreg .vcounter) = true ∧
    Instr.rdreg .vcounter ≠ .rdreg .status ∧
    ran (exec (.rdreg .vcounter) { halted with status := { halted.status with fatal := false } })
      (fun t => t.resp == 5) = true ∧
    ran (exec (.rdreg .status) halted) (fun t => t.resp == 0x122) = true ∧
    ran (exec (.illegal 0) halted) (fun t => t.status.fatal && t.status.cause == 1) = true := by decide

theorem test_witness_OnlyTickAndPowerWriteEngineState :
    Instr.rdpix 1 2 ≠ .tick ∧ Instr.rdpix 1 2 ≠ .power ∧
    ran (exec (.rdpix 1 2) window) (fun t => t.fb == window.fb) = true ∧
    ran (exec .power window) (fun t => t.fb == window.fb) = true := by decide

end Sys2Proof.Tests
end

/-! SUPPORT. What one step answers, one lemma per case of the configuration and of the pending words (00_scope.md R8,
R13, 43_host_commands.md R170, 60_exceptions.md R227). -/

namespace Sys2Proof.Machine

variable {s : State} {w : Word} {rest : List Word}

/-! The command port. -/

theorem State.fetch_of_cmds_nil (h : s.cmds = []) : s.fetch = none := by
  simp only [State.fetch, h]

theorem State.fetch_of_cmds_cons (h : s.cmds = w :: rest) : s.fetch = some (w, s.setCmds rest) := by
  simp only [State.fetch, h]

@[simp] theorem State.setCmds_setCmds (s : State) (u v : List Word) : (s.setCmds u).setCmds v = s.setCmds v := rfl

@[simp] theorem State.setCmds_cmds_self (s : State) : s.setCmds s.cmds = s := rfl

/-- A table row of the full width is its word: no bit is cut. -/
@[simp] theorem tableWord_toNat (w : Word) : tableWord 32 w.toNat = w := by
  rw [tableWord, Nat.mod_eq_of_lt w.isLt, BitVec.ofNat_toNat, BitVec.setWidth_eq]

theorem State.withFetchWord_toNat (s : State) (w : Word) :
    s.withFetchWord 32 w.toNat = s.setCmds (w :: s.cmds) := by
  rw [State.withFetchWord, tableWord_toNat]

/-! The step. -/

theorem step_of_failing {k : CfgCheck} (h : s.cfg.failing = some k) : step s = .refused (.badConfig k) := by
  simp only [step, h]

theorem step_of_cmds_nil (hok : s.cfg.Ok) (h : s.cmds = []) : step s = .next s := by
  simp only [step, hok, State.fetch_of_cmds_nil h]

theorem step_of_cmds_cons (hok : s.cfg.Ok) (h : s.cmds = w :: rest) :
    step s = exec (decode w) (s.setCmds rest) := by
  simp only [step, hok, State.fetch_of_cmds_cons h]

/-- A word put before the pending ones is taken off again by the step that runs it. -/
theorem step_withFetchWord (hok : s.cfg.Ok) : step (s.withFetchWord 32 w.toNat) = exec (decode w) s := by
  rw [State.withFetchWord_toNat, step_of_cmds_cons (s := s.setCmds (w :: s.cmds)) hok (s.setCmds_cmds _),
    State.setCmds_setCmds, State.setCmds_cmds_self]

/-- Settles O7, clause by clause from the cases of the step. -/
theorem stepRunsDecodedCommand : Obligations.StepRunsDecodedCommand :=
  ⟨fun _ _ _ hok h => step_of_cmds_cons hok h, fun _ hok h => step_of_cmds_nil hok h,
    fun _ _ h => step_of_failing h, fun _ _ hok => step_withFetchWord hok⟩

end Sys2Proof.Machine

/-! SUPPORT. The state between commands (10_state.md R22 to R36): what a command other than TICK can leave, what no command
writes, the response register and the status word. -/

namespace Sys2Proof.Machine

variable {i : Instr} {s t u : State}

/-! The outcomes of the commands other than TICK. -/

/-- A read writes the response, from the state or from a draw, or raises the Range fault (43_host_commands.md R172 to
R176). -/
def ReadOutcome (s t : State) : Prop :=
  (∃ v, t = s.setResp v) ∨ (∃ v, t = s.draw.2.setResp v) ∨ ∃ w, t = s.raiseRange w

theorem exec_read_outcome (hi : isReadCommand i = true) (he : exec i s = .next t) : ReadOutcome s t := by
  cases i with
  | tick => cases hi
  | power => cases hi
  | illegal w => cases hi
  | rdpix x y =>
    simp only [exec, execRdpix] at he
    split at he
    · split at he
      · cases he; exact .inl ⟨_, rfl⟩
      · cases he; exact .inr (.inl ⟨_, rfl⟩)
    · cases he; exact .inr (.inr ⟨_, rfl⟩)
  | rdreg r =>
    simp only [exec, execRdreg] at he
    split at he
    · cases he; exact .inr (.inl ⟨_, rfl⟩)
    · cases he; exact .inl ⟨_, rfl⟩
  | rdrec y =>
    simp only [exec, execRdrec] at he
    split at he
    · cases he; exact .inl ⟨_, rfl⟩
    · cases he; exact .inr (.inr ⟨_, rfl⟩)

/-- The inversion of every command but TICK: POWER, a read, or an illegal word. -/
theorem exec_cases (hi : i ≠ .tick) (he : exec i s = .next t) :
    (i = .power ∧ t = (powerReset s).callPower) ∨ (isReadCommand i = true ∧ ReadOutcome s t) ∨
      ∃ w, i = .illegal w ∧ t = s.raiseIllegal w := by
  cases i with
  | tick => exact absurd rfl hi
  | power => cases he; exact .inl ⟨rfl, rfl⟩
  | illegal w => cases he; exact .inr (.inr ⟨w, rfl, rfl⟩)
  | rdpix x y => exact .inr (.inl ⟨rfl, exec_read_outcome rfl he⟩)
  | rdreg r => exact .inr (.inl ⟨rfl, exec_read_outcome rfl he⟩)
  | rdrec y => exact .inr (.inl ⟨rfl, exec_read_outcome rfl he⟩)

/-- POWER's own reset keeps the configuration, the frame buffer, the logs and the model's own fields
(43_host_commands.md R171). -/
@[simp] theorem powerReset_frame (s : State) :
    (powerReset s).cfg = s.cfg ∧ (powerReset s).fb = s.fb ∧ (powerReset s).hist = s.hist ∧
    (powerReset s).faults = s.faults ∧ (powerReset s).cmds = s.cmds ∧ (powerReset s).tape = s.tape ∧
    (powerReset s).draws = s.draws := by
  simp [powerReset]

/-- What POWER's own reset zeroes (43_host_commands.md R171). -/
@[simp] theorem powerReset_zeroes (s : State) :
    (powerReset s).clock = 0 ∧ (powerReset s).hcounter = 0 ∧ (powerReset s).vcounter = 0 ∧
    (powerReset s).frameLines = 0 ∧ (powerReset s).usage = Usage.none ∧ (powerReset s).record = [] ∧
    (powerReset s).vp = ⟨0, 0, 0, 0⟩ ∧ (powerReset s).status = ⟨false, false, false, false, 0, 0⟩ ∧
    (powerReset s).resp = 0 := by
  simp [powerReset, State.clearRecord]

/-- The fields that the engine proper alone writes, that is, TICK and POWER (20_memory.md R64, 10_state.md R22): all but
the response, ILL, RANGE, the fault log and the model's own fields are the same. -/
structure SameEngine (s t : State) : Prop where
  cfg : t.cfg = s.cfg
  clock : t.clock = s.clock
  hcounter : t.hcounter = s.hcounter
  vcounter : t.vcounter = s.vcounter
  frameLines : t.frameLines = s.frameLines
  usage : t.usage = s.usage
  record : t.record = s.record
  fb : t.fb = s.fb
  vp : t.vp = s.vp
  hist : t.hist = s.hist
  fr : t.status.fr = s.status.fr
  fatal : t.status.fatal = s.status.fatal
  cause : t.status.cause = s.status.cause
  diag : t.status.diag = s.status.diag

theorem ReadOutcome.sameEngine (h : ReadOutcome s t) : SameEngine s t := by
  obtain ⟨v, rfl⟩ | ⟨v, rfl⟩ | ⟨w, rfl⟩ := h <;> constructor <;> simp

theorem State.raiseIllegal_sameEngine (s : State) (w : Word) : SameEngine s (s.raiseIllegal w) := by
  constructor <;> simp

/-- Taking words from the command port is no write to the engine. -/
theorem State.setCmds_sameEngine (s : State) (ws : List Word) : SameEngine s (s.setCmds ws) := by
  constructor <;> rfl

/-- Every command but TICK and POWER leaves the engine proper as it is (20_memory.md R64, 60_exceptions.md R223). -/
theorem exec_sameEngine (hi : i ≠ .tick) (hp : i ≠ .power) (he : exec i s = .next t) : SameEngine s t := by
  obtain ⟨rfl, -⟩ | ⟨-, hr⟩ | ⟨w, -, rfl⟩ := exec_cases hi he
  · exact absurd rfl hp
  · exact hr.sameEngine
  · exact s.raiseIllegal_sameEngine w

/-- Settles O51: POWER is no frame buffer write, and every other command but TICK leaves the engine proper. -/
theorem onlyTickAndPowerWriteEngineState : Obligations.OnlyTickAndPowerWriteEngineState := by
  intro i s t hi he
  by_cases hp : i = .power
  · subst hp
    cases he
    exact ⟨by simp, fun h => absurd rfl h⟩
  · have h := exec_sameEngine hi hp he
    exact ⟨h.fb, fun _ => ⟨h.clock, h.hcounter, h.vcounter, h.frameLines, h.usage, h.record, h.vp, h.diag, h.fr,
      h.hist⟩⟩

/-! The configuration and the response. -/

/-- No TICK, in whatever state, writes the configuration or the response (10_state.md R30, R36). -/
theorem execTick_cfg_resp (he : exec .tick s = .next t) : t.cfg = s.cfg ∧ t.resp = s.resp := by
  obtain ⟨-, rfl⟩ | ⟨-, ⟨u, k, info, hu, rfl⟩ | ⟨u, hu, ht⟩⟩ := execTick_inv he
  · exact ⟨rfl, rfl⟩
  · obtain rfl | rfl | rfl | rfl := hu <;> simp
  · have h : u.cfg = s.cfg ∧ u.resp = s.resp := by obtain rfl | ⟨v, rfl⟩ := hu <;> simp
    obtain rfl | rfl := ht <;> simpa using h

/-- Settles O13: TICK by its inversion, POWER by its reset, every other command by its frame. -/
theorem noCommandWritesConfiguration : Obligations.NoCommandWritesConfiguration := by
  intro i s t he
  by_cases hi : i = .tick
  · subst hi
    exact (execTick_cfg_resp he).1
  · by_cases hp : i = .power
    · subst hp
      cases he
      simp
    · exact (exec_sameEngine hi hp he).cfg

@[simp] theorem State.setResp_setResp (s : State) (v w : Word) : (s.setResp v).setResp w = s.setResp w := rfl

/-- A draw does not depend on the response. -/
theorem State.draw_setResp (s : State) (v : Word) : (s.setResp v).draw = (s.draw.1, s.draw.2.setResp v) := by
  unfold State.draw
  rw [State.setResp_tape]
  split <;> rfl

theorem State.respondDraw_setResp (s : State) (v : Word) (cut : Int → Word) :
    (s.setResp v).respondDraw cut = s.respondDraw cut := by
  simp only [State.respondDraw, State.draw_setResp, State.setResp_setResp]

/-- The response that a read finds plays no part in it: every outcome writes its own (43_host_commands.md R172 to
R176). -/
theorem exec_read_setResp (v : Word) (hi : isReadCommand i = true) : exec i (s.setResp v) = exec i s := by
  cases i with
  | tick => cases hi
  | power => cases hi
  | illegal w => cases hi
  | rdpix x y =>
    simp only [exec, execRdpix, State.respondDraw_setResp]
    rfl
  | rdreg r =>
    simp only [exec, execRdreg, State.respondDraw_setResp]
    cases r <;> rfl
  | rdrec y => rfl

/-- Settles O47, writer by writer. -/
theorem responseRegisterWriters : Obligations.ResponseRegisterWriters := by
  refine ⟨fun _ _ v hi => exec_read_setResp v hi, ?_, fun _ _ he => (execTick_cfg_resp he).2, ?_, fun _ => rfl, rfl⟩
  · intro s t he
    cases he
    simp
  · intro w s t he
    cases he
    simp

/-! The status word. -/

/-- The flags of R29's table, from bit 0 up. -/
def State.statusFlags (s : State) : List Bool :=
  [s.status.fr, s.status.fatal, s.status.ill, s.status.range, s.cfg.dual, s.usage.w1, s.usage.w2, s.usage.w3]

/-- The status word bit by bit: the flags below CAUSE below DIAG (10_state.md R29). -/
theorem State.statusWord_getLsbD (s : State) (k : Nat) :
    s.statusWord.getLsbD k =
      if k < 8 then s.statusFlags.getD k false
      else if k < 16 then s.status.cause.getLsbD (k - 8) else s.status.diag.getLsbD (k - 16) := by
  simp only [State.statusWord, BitVec.getLsbD_append]
  by_cases hk : k < 8
  · rw [if_pos hk]
    interval_cases k <;> simp [State.statusFlags]
  · rw [if_neg hk]
    have hne : ∀ n < 8, k - n ≠ 0 := fun n hn => by omega
    have h16 : k - 8 < 8 ↔ k < 16 := by omega
    simp [Nat.sub_sub, hne, h16, show k ≠ 0 by omega]

/-- Settles O40, from the word bit by bit. -/
theorem statusWordLayout : Obligations.StatusWordLayout := by
  intro s
  have flag : ∀ k < 8, s.statusWord.getLsbD k = s.statusFlags.getD k false := fun k hk => by
    rw [State.statusWord_getLsbD, if_pos hk]
  refine ⟨flag 0 (by decide), flag 1 (by decide), flag 2 (by decide), flag 3 (by decide), flag 4 (by decide),
    flag 5 (by decide), flag 6 (by decide), flag 7 (by decide), ?_, ?_⟩
  · refine BitVec.eq_of_getLsbD_eq fun k hk => ?_
    rw [BitVec.getLsbD_extractLsb', State.statusWord_getLsbD, if_neg (by omega), if_pos (by omega)]
    simp [hk]
  · refine BitVec.eq_of_getLsbD_eq fun k hk => ?_
    rw [BitVec.getLsbD_extractLsb', State.statusWord_getLsbD, if_neg (by omega), if_neg (by omega)]
    simp [hk]

end Sys2Proof.Machine

/-! SUPPORT. The growth of the history and of the fault log (10_state.md R32, R33). -/

namespace Sys2Proof.Machine

variable {i : Instr} {s t u : State} {c : Cfg}

/-- An event that a TICK can append: no power call (44_collaborator_interface.md R201), and in single-chip mode none that
names chip B or the combiner (R203). -/
def TickEvent (c : Cfg) (e : Event) : Prop :=
  (∀ k, e ≠ .powerc k) ∧ (c.dual = false → e.namesDual = false)

/-- From s to t the configuration stays and the history grows by events of a TICK. -/
def TickGrowth (s t : State) : Prop :=
  t.cfg = s.cfg ∧ ∃ es, t.hist = s.hist ++ es ∧ ∀ e ∈ es, TickEvent s.cfg e

theorem TickGrowth.of_hist_eq (hc : t.cfg = s.cfg) (hh : t.hist = s.hist) : TickGrowth s t :=
  ⟨hc, [], by simp [hh], by simp⟩

theorem TickGrowth.trans (h : TickGrowth s t) (h' : TickGrowth t u) : TickGrowth s u := by
  obtain ⟨hc, es, hh, he⟩ := h
  obtain ⟨hc', es', hh', he'⟩ := h'
  refine ⟨hc'.trans hc, es ++ es', by rw [hh', hh, List.append_assoc], fun e hm => ?_⟩
  rcases List.mem_append.1 hm with hm | hm
  · exact he e hm
  · exact hc ▸ he' e hm

/-- A call or query that appends one event of a TICK. -/
theorem TickGrowth.of_event {e : Event} (hc : t.cfg = s.cfg) (hh : t.hist = s.hist ++ [e]) (he : TickEvent s.cfg e) :
    TickGrowth s t :=
  ⟨hc, [e], hh, by simpa using he⟩

/-! The calls and queries of a TICK. -/

/-- A chip hook, whose event for chip A alone can occur in single-chip mode (40_tick.md R103). -/
theorem State.callChips_growth (s : State) {hook : Chip → Event} (hp : ∀ x k, hook x ≠ .powerc k)
    (ha : (hook .a).namesDual = false) : TickGrowth s (s.callChips hook) := by
  refine ⟨by simp, _, s.callChips_hist hook, fun e he => ?_⟩
  unfold chipEvents at he
  split at he
  · next hd =>
    have : e = hook .a ∨ e = hook .b := by simpa using he
    obtain rfl | rfl := this <;> exact ⟨hp _, fun h => by simp [h] at hd⟩
  · obtain rfl := List.mem_singleton.1 he
    exact ⟨hp _, fun _ => ha⟩

theorem State.callRender_growth (s : State) : TickGrowth s s.callRender := by
  refine ⟨by simp, _, s.callRender_hist, fun e he => ?_⟩
  split at he
  · next hd =>
    obtain rfl := List.mem_singleton.1 he
    exact ⟨nofun, fun h => by simp [h] at hd⟩
  · cases he

theorem advanceCycles_growth (n : Nat) (s : State) : TickGrowth s (advanceCycles n s) :=
  .of_event (by simp) (advanceCycles_hist n s) ⟨nofun, fun _ => rfl⟩

theorem State.queryExtra_growth (s : State) : TickGrowth s s.queryExtra.2 :=
  .of_event (by simp) s.queryExtra_hist ⟨nofun, fun _ => rfl⟩

/-! The Composer. -/

/-- In single-chip mode the index comes from chip A (44_collaborator_interface.md R198). -/
theorem composePixel_growth (y : Nat) (g : Bool) (x : Nat) (s : State) : TickGrowth s (composePixel y g x s) := by
  obtain ⟨i, v, -, hh, -⟩ := composePixel_spec y g x s
  refine ⟨by simp, _, hh, fun e he => ?_⟩
  have : e = .index (indexSource s.cfg) x i ∨ e = .resolve g i v := by simpa [pixelEvents] using he
  obtain rfl | rfl := this
  · exact ⟨nofun, fun h => by simp [Event.namesDual, indexSource, h]⟩
  · exact ⟨nofun, fun _ => rfl⟩

theorem composeColumns_growth (y : Nat) (g : Bool) (x n : Nat) (s : State) :
    TickGrowth s (composeColumns y g x n s) := by
  induction n generalizing x s with
  | zero => exact .of_hist_eq rfl rfl
  | succ n ih => exact (composePixel_growth y g x s).trans (ih (x + 1) _)

theorem composeRow_growth (y : Nat) (s : State) : TickGrowth s (composeRow y s) := by
  have hw : TickGrowth s s.queryWidth.2 := .of_event (by simp) s.queryWidth_hist ⟨nofun, fun _ => rfl⟩
  have hg : TickGrowth s.queryWidth.2 s.queryWidth.2.queryGray.2 :=
    .of_event (by simp) s.queryWidth.2.queryGray_hist ⟨nofun, fun _ => rfl⟩
  have hc := composeColumns_growth y s.queryWidth.2.queryGray.1 0 (s.cfg.width s.queryWidth.1)
    s.queryWidth.2.queryGray.2.callRender
  exact (((hw.trans hg).trans (State.callRender_growth _)).trans hc).trans
    (.of_hist_eq (by simp) (by simp [composeRow]))

theorem bandRow_growth (s : State) : TickGrowth s (bandRow s) := by
  unfold bandRow
  split
  · exact composeRow_growth _ s
  · exact .of_hist_eq rfl rfl

/-! The line. -/

theorem beforeBand_growth (s : State) : TickGrowth s (beforeBand s) := by
  have h1 : TickGrowth s (tickStep1 (s.setFr false)) :=
    (TickGrowth.of_hist_eq (by simp) (by simp)).trans (State.callChips_growth (s.setFr false) nofun rfl)
  have h2 : ∀ u, TickGrowth u (tickStep2 u) := fun u => by
    unfold tickStep2
    split
    · exact (State.callChips_growth u (hook := .vsync) nofun rfl).trans (.of_hist_eq (by simp) (by simp))
    · exact .of_hist_eq rfl rfl
  exact ((h1.trans (h2 _)).trans (advanceCycles_growth _ _)).trans (State.callChips_growth _ nofun rfl)

theorem afterLine_growth (s : State) : TickGrowth s (afterLine s) :=
  (((beforeBand_growth s).trans (bandRow_growth _)).trans (advanceCycles_growth _ _)).trans
    (State.callChips_growth _ nofun rfl)

theorem endLine_growth (s : State) : TickGrowth s (endLine s) :=
  (afterLine_growth s).trans (.of_hist_eq (by simp [endLine]) (by simp [endLine]))

/-! The end of a frame. -/

theorem normalizeRow_growth (y : Nat) (s : State) : TickGrowth s (normalizeRow y s) := by
  cases h : s.recRead y with
  | unrec =>
    exact .of_event (e := .diag y) (by simp) (by simp [normalizeRow, h, skipRow, State.countDiag])
      ⟨nofun, fun _ => rfl⟩
  | mode m => exact .of_hist_eq (by simp) (by simp [normalizeRow, h])

theorem normalizeRows_growth (y n : Nat) (s : State) : TickGrowth s (normalizeRows y n s) := by
  induction n generalizing y s with
  | zero => exact .of_hist_eq rfl rfl
  | succ n ih => exact (normalizeRow_growth y s).trans (ih (y + 1) _)

theorem normalizeFrame_growth (s : State) : TickGrowth s (normalizeFrame s) := by
  have hd : TickGrowth s (s.setDiag 0) := .of_hist_eq (by simp) (by simp)
  simp only [normalizeFrame]
  split
  · exact hd.trans (.of_hist_eq rfl rfl)
  · exact hd.trans ((normalizeRows_growth _ _ _).trans (.of_hist_eq rfl rfl))

theorem endFrame_growth (s : State) : TickGrowth s (endFrame s) :=
  (TickGrowth.trans (.of_hist_eq rfl rfl) (normalizeFrame_growth ((s.setVcounter 0).setFrameLines 0))).trans
    (.of_event (e := .frameDone) rfl rfl ⟨nofun, fun _ => rfl⟩)

/-! The two logs. -/

/-- A TICK, in whatever state, appends events of a TICK and at most one fault record, a fatal one (10_state.md R32, R33,
60_exceptions.md R211). -/
theorem execTick_logs (he : exec .tick s = .next t) :
    TickGrowth s t ∧ (t.faults = s.faults ∨ ∃ (k : FatalCause) (info : Int),
      t.faults = s.faults ++ [⟨.fatal, k.code, info⟩]) := by
  have hx : TickGrowth s (endLine s).queryExtra.2 := (endLine_growth s).trans (State.queryExtra_growth _)
  obtain ⟨-, rfl⟩ | ⟨-, ⟨u, k, info, hu, rfl⟩ | ⟨u, hu, ht⟩⟩ := execTick_inv he
  · exact ⟨.of_hist_eq rfl rfl, .inl rfl⟩
  · have h : TickGrowth s u ∧ u.faults = s.faults := by
      obtain rfl | rfl | rfl | rfl := hu
      · exact ⟨.of_hist_eq (by simp) (by simp), by simp⟩
      · exact ⟨afterLine_growth s, by simp⟩
      · exact ⟨(afterLine_growth s).trans (.of_hist_eq rfl rfl), by simp⟩
      · exact ⟨hx, by simp⟩
    exact ⟨h.1.trans (.of_hist_eq rfl rfl), .inr ⟨k, info, by simp [h.2]⟩⟩
  · have h : TickGrowth s u ∧ u.faults = s.faults := by
      obtain rfl | ⟨v, rfl⟩ := hu
      · exact ⟨endLine_growth s, by simp⟩
      · exact ⟨hx.trans (.of_hist_eq rfl rfl), by simp⟩
    obtain rfl | rfl := ht
    · exact ⟨h.1, .inl h.2⟩
    · exact ⟨h.1.trans (endFrame_growth u), .inl (by simp [h.2])⟩

theorem State.callPower_hist (s : State) :
    s.callPower.hist = s.hist ++ (if s.cfg.dual then
      [.powerc .a, .powerc .b, .powerc .comb, .powerc .vce, .powerc .dma]
    else [.powerc .a, .powerc .vce, .powerc .dma]) := by
  cases hd : s.cfg.dual <;> simp [State.callPower, hd]

/-- A read appends at most one fault record, that of the Range fault (60_exceptions.md R215). -/
theorem ReadOutcome.faults (h : ReadOutcome s t) :
    t.faults = s.faults ∨ ∃ w : Word, t.faults = s.faults ++ [⟨.range, 0, w.toNat⟩] := by
  obtain ⟨v, rfl⟩ | ⟨v, rfl⟩ | ⟨w, rfl⟩ := h
  · exact .inl rfl
  · exact .inl (by simp)
  · exact .inr ⟨w, rfl⟩

/-- Settles O14, kind of command by kind of command. -/
theorem logsOnlyGrow : Obligations.LogsOnlyGrow := by
  intro i s t he
  by_cases hi : i = .tick
  · subst hi
    obtain ⟨⟨-, es, hh, -⟩, hf⟩ := execTick_logs he
    exact ⟨⟨es, hh⟩, hf.imp_right fun ⟨k, info, h⟩ => ⟨_, h⟩⟩
  · obtain ⟨-, rfl⟩ | ⟨-, hr⟩ | ⟨w, -, rfl⟩ := exec_cases hi he
    · have hh : (powerReset s).hist = s.hist := by simp
      exact ⟨⟨_, by rw [State.callPower_hist, hh]⟩, .inl (by simp)⟩
    · exact ⟨⟨[], by simp [hr.sameEngine.hist]⟩, hr.faults.imp_right fun ⟨w, h⟩ => ⟨_, h⟩⟩
    · exact ⟨⟨[], by simp⟩, .inr ⟨_, s.raiseIllegal_faults w⟩⟩

end Sys2Proof.Machine

/-! SUPPORT. The invariant of the engine (10_state.md R34): it holds at load and after POWER, and every step keeps it. -/

namespace Sys2Proof.Machine

variable {i : Instr} {s t u : State}

/-! The two parts of the invariant. -/

/-- The part of `EngineInv` that holds whether or not the engine is halted. -/
structure StaticInv (s : State) : Prop where
  cfgOk : s.cfg.Ok
  fbWf : Memory.wf s.fb
  recordWf : Memory.wf s.record
  cells : CellsInRange s
  cause : CauseLegal s
  vpX : s.vp.x = 0

theorem engineInv_iff : EngineInv s ↔ StaticInv s ∧ (s.status.fatal = false → Running s) :=
  ⟨fun h => ⟨⟨h.cfgOk, h.fbWf, h.recordWf, h.cells, h.cause, h.vpX⟩, h.running⟩,
    fun ⟨h, hr⟩ => ⟨h.cfgOk, h.fbWf, h.recordWf, h.cells, h.cause, h.vpX, hr⟩⟩

/-- A write to none of the fields that `StaticInv` speaks of keeps it. -/
theorem StaticInv.congr (h : StaticInv s) (hc : t.cfg = s.cfg) (hfb : t.fb = s.fb) (hr : t.record = s.record)
    (hx : t.vp.x = s.vp.x) (hf : t.status.fatal = s.status.fatal) (hcause : t.status.cause = s.status.cause) :
    StaticInv t where
  cfgOk := hc ▸ h.cfgOk
  fbWf := hfb ▸ h.fbWf
  recordWf := hr ▸ h.recordWf
  cells := by rw [CellsInRange, hfb, hc]; exact h.cells
  cause := by rw [CauseLegal, hf, hcause]; exact h.cause
  vpX := hx.trans h.vpX

/-- What leaves the engine proper keeps the invariant. -/
theorem SameEngine.engineInv (e : SameEngine s t) (h : EngineInv s) : EngineInv t := by
  obtain ⟨hs, hrun⟩ := engineInv_iff.1 h
  refine engineInv_iff.2 ⟨hs.congr e.cfg e.fb e.record (by rw [e.vp]) e.fatal e.cause, fun hf => ?_⟩
  have hr := hrun (e.fatal ▸ hf)
  have hrec : ∀ y, t.recRead y = s.recRead y := State.recRead_congr e.record
  refine ⟨?_, ?_, ?_, ?_, ?_, ?_, ?_⟩
  · rw [Inv1, e.hcounter]; exact hr.inv1
  · rw [Inv2, e.frameLines, e.vcounter, e.cfg]; exact hr.inv2
  · simp only [Inv3, hrec, e.cfg]; exact hr.inv3
  · simp only [Inv4, hrec, e.cfg, e.usage]; exact hr.inv4
  · rw [Inv5, e.fr, e.vcounter, e.frameLines]; exact hr.inv5
  · simp only [RowsAheadUnrec, hrec, e.vcounter]; exact hr.ahead
  · simp only [RowsBehindRecorded, hrec, e.cfg, e.vcounter]; exact hr.behind

/-! Load and POWER. -/

/-- At the start of the first frame: counters 0, record and usage flags clear. -/
theorem running_of_cleared (hc : s.cfg.Ok) (hh : s.hcounter = 0) (hv : s.vcounter = 0) (hl : s.frameLines = 0)
    (hu : s.usage = Usage.none) (hr : s.record = []) : Running s := by
  have hrec : ∀ y, s.recRead y = .unrec := fun y => by simp [State.recRead, hr]
  have hv0 : s.vcounter.toNat = 0 := by simp [hv]
  have hl0 : s.frameLines.toNat = 0 := by simp [hl]
  have hpos := hc.lines.1
  exact {
    inv1 := by simp [Inv1, hh]
    inv2 := .inl ⟨hl0, by omega⟩
    inv3 := fun y _ => hrec y
    inv4 := fun m => by simp [hu, hrec]
    inv5 := fun _ => ⟨hv0, hl0⟩
    ahead := fun h => absurd hv0 h
    behind := fun y _ hy => absurd hy (by omega) }

/-- Settles O10: all fields the invariant speaks of are clear at load. -/
theorem loadStateMeetsInv : Obligations.LoadStateMeetsInv := by
  have hload : ∀ c tape draws, c.Ok → EngineInv (((State.initial c).setTape tape).setDraws draws) :=
    fun c tape draws hc => engineInv_iff.2 ⟨
      { cfgOk := hc
        fbWf := Memory.wf_nil
        recordWf := Memory.wf_nil
        cells := nofun
        cause := by rw [CauseLegal]; simp [State.initial]
        vpX := rfl },
      fun _ => running_of_cleared hc rfl rfl rfl rfl rfl⟩
  exact ⟨hload, hload Config.atReset [] 0 (by decide)⟩

/-- POWER keeps the frame buffer and clears the rest (43_host_commands.md R171). -/
theorem execPower_engineInv (h : EngineInv s) : EngineInv (powerReset s).callPower := by
  refine engineInv_iff.2 ⟨?_, fun _ => running_of_cleared ?_ ?_ ?_ ?_ ?_ ?_⟩
  · exact {
      cfgOk := by simpa using h.cfgOk
      fbWf := by simpa using h.fbWf
      recordWf := by simp
      cells := by simpa [CellsInRange] using h.cells
      cause := by rw [CauseLegal]; simp
      vpX := by simp }
  · simpa using h.cfgOk
  all_goals simp

/-! The arrays, CAUSE and the viewport through a TICK. -/

/-- A fatal fault sets CAUSE to one of the five codes, or keeps the one it finds (60_exceptions.md R210, R211). -/
theorem StaticInv.raiseFatal (h : StaticInv s) (k : FatalCause) (info : Int) : StaticInv (s.raiseFatal k info) := by
  have hk : k.code ≠ 0 ∧ k.code.toNat ≤ 5 := by cases k <;> decide
  refine ⟨by simpa using h.cfgOk, by simpa using h.fbWf, by simpa using h.recordWf,
    by simpa [CellsInRange] using h.cells, ?_, by simpa using h.vpX⟩
  rw [CauseLegal, State.raiseFatal_status]
  dsimp only
  split
  · exact ⟨iff_of_false hk.1 nofun, hk.2⟩
  · next hc => exact ⟨iff_of_false hc nofun, h.cause.2⟩

/-- Composing a row inside the buffer keeps the arrays canonical and in their bounds (20_memory.md R51, R52). -/
theorem StaticInv.composeRow {y : Nat} (h : StaticInv s) (hy : y < s.cfg.bufH) : StaticInv (composeRow y s) := by
  set m := s.queryWidth.1
  set q := s.queryWidth.2.queryGray.2.callRender with hq
  set g := s.queryWidth.2.queryGray.1
  have hqc : q.cfg = s.cfg := by simp [hq]
  have hqf : q.fb = s.fb := by simp [hq]
  have hfb : (Machine.composeRow y s).fb = (composeColumns y g 0 (s.cfg.width m) q).fb := by
    simp [Machine.composeRow, m, q, g]
  have hrec : (Machine.composeRow y s).record = Memory.insert s.record y m := by
    simp [Machine.composeRow, State.recWrite, m]
  have hcells : CellsInRange (composeColumns y g 0 (s.cfg.width m) q) :=
    composeColumns_cells y g 0 _ (hqc ▸ h.cfgOk) (hqc ▸ hy)
      (by have := h.cfgOk.fit; have := s.cfg.width_le_canonical m; rw [hqc]; omega)
      (by rw [CellsInRange, hqc, hqf]; exact h.cells)
  exact {
    cfgOk := by simpa using h.cfgOk
    fbWf := by rw [hfb]; exact composeColumns_wf y g 0 _ (hqf ▸ h.fbWf)
    recordWf := by rw [hrec]; exact Memory.wf_insert h.recordWf y m
    cells := by simpa [CellsInRange, hfb, hqc] using hcells
    cause := by simpa [CauseLegal] using h.cause
    vpX := by simpa using h.vpX }

theorem beforeBand_record (s : State) : (beforeBand s).record = if s.vcounter = 0 then [] else s.record := by
  simp only [beforeBand, tickStep4_frame, tickStep3_frame, tickStep2]
  split <;> simp_all [State.clearRecord]

theorem StaticInv.beforeBand (h : StaticInv s) : StaticInv (beforeBand s) where
  cfgOk := by simpa using h.cfgOk
  fbWf := by simpa using h.fbWf
  recordWf := by
    rw [beforeBand_record]
    split
    · exact Memory.wf_nil
    · exact h.recordWf
  cells := by simpa [CellsInRange] using h.cells
  cause := by simpa [CauseLegal] using h.cause
  vpX := by simpa using h.vpX

theorem StaticInv.bandRow (h : StaticInv s) : StaticInv (bandRow s) := by
  unfold Machine.bandRow
  split
  · next hb => exact h.composeRow (h.cfgOk.inBand_lt hb)
  · exact h

theorem StaticInv.endLine (h : StaticInv s) : StaticInv (endLine s) :=
  h.beforeBand.bandRow.congr (by simp) (by simp [Machine.endLine, afterLine]) (by simp [Machine.endLine, afterLine])
    (by simp) (by simp) (by simp)

theorem StaticInv.queryExtra (h : StaticInv s) : StaticInv s.queryExtra.2 :=
  h.congr (by simp) (by simp) (by simp) (by simp) (by simp) (by simp)

/-- Latching a threshold writes none of the fields that `StaticInv` speaks of (40_tick.md R110). -/
theorem StaticInv.latch (h : StaticInv s) (v : BitVec 16) : StaticInv (s.queryExtra.2.setFrameLines v) :=
  h.queryExtra.congr rfl rfl rfl rfl rfl rfl

/-- The row pass, over rows inside the buffer, keeps the bounds of the listed cells: every factor is exact
(00_scope.md R8 CFG_EXACT, CFG_FIT). -/
theorem normalizeRows_cells (y n : Nat) (hc : s.cfg.Ok) (hn : y + n ≤ s.cfg.bufH) (h : CellsInRange s) :
    CellsInRange (normalizeRows y n s) := by
  induction n generalizing y s with
  | zero => exact h
  | succ n ih =>
    refine ih (y + 1) (by simpa using hc) (by simp; omega) ?_
    cases hr : s.recRead y with
    | unrec => simpa [CellsInRange, normalizeRow, hr] using h
    | mode m =>
      simp only [normalizeRow, hr, stretch]
      exact stretchDown_cells y _ _ hc (by omega) (by rw [hc.width_mul_factor]; exact hc.fit.1) h

theorem normalizeFrame_cells (hc : s.cfg.Ok) (h : CellsInRange s) : CellsInRange (normalizeFrame s) := by
  have hd : CellsInRange (s.setDiag 0) := by simpa [CellsInRange] using h
  simp only [normalizeFrame]
  split
  · exact hd
  · exact normalizeRows_cells _ _ hc hc.band.2 hd

/-- Every frame's viewport starts at column 0 (10_state.md R28). -/
theorem normalizeFrame_vp_x (s : State) : (normalizeFrame s).vp.x = 0 := by
  simp only [normalizeFrame]
  split <;> rfl

theorem StaticInv.normalizeFrame (h : StaticInv s) : StaticInv (normalizeFrame s) where
  cfgOk := by simpa using h.cfgOk
  fbWf := normalizeFrame_wf h.fbWf
  recordWf := by simpa using h.recordWf
  cells := normalizeFrame_cells h.cfgOk h.cells
  cause := by rw [CauseLegal, normalizeFrame_status]; exact h.cause
  vpX := normalizeFrame_vp_x s

theorem StaticInv.endFrame (h : StaticInv s) : StaticInv (endFrame s) :=
  (h.congr (t := (s.setVcounter 0).setFrameLines 0) rfl rfl rfl rfl rfl rfl).normalizeFrame.congr
    rfl rfl rfl rfl rfl rfl

/-! Record and usage flags through a line. -/

/-- INV3 and INV4 with the rows of a frame whose next row to compose is v: those behind v recorded, those from v on
UNREC (42_normalize.md R153, log entry 18). -/
structure RowsInv (s : State) (v : Nat) : Prop where
  inv3 : Inv3 s
  inv4 : Inv4 s
  ahead : ∀ y, v ≤ y → s.recRead y = .unrec
  behind : ∀ y, s.cfg.InBand y → y < v → s.recRead y ≠ .unrec

/-- What record and flags read as is all that `RowsInv` speaks of. -/
theorem RowsInv.congr {v : Nat} (h : RowsInv s v) (hc : t.cfg = s.cfg) (hu : t.usage = s.usage)
    (hr : ∀ y, t.recRead y = s.recRead y) : RowsInv t v where
  inv3 := by simpa only [Inv3, hr, hc] using h.inv3
  inv4 := by simpa only [Inv4, hr, hc, hu] using h.inv4
  ahead := by simpa only [hr] using h.ahead
  behind := by simpa only [hr, hc] using h.behind

/-- Step 2 clears the record and the flags at a frame start, and elsewhere the invariant says it (40_tick.md R102). -/
theorem Running.rowsInv_beforeBand (h : Running s) : RowsInv (beforeBand s) s.vcounter.toNat := by
  by_cases hv : s.vcounter.toNat = 0
  · have hv' := s.vcounter_eq_zero.2 hv
    have hr : ∀ y, (beforeBand s).recRead y = .unrec := fun y => by rw [beforeBand_recRead, if_pos hv']
    have hu : (beforeBand s).usage = Usage.none := by rw [beforeBand_usage, if_pos hv']
    exact {
      inv3 := fun y _ => hr y
      inv4 := fun m => by simp [hu, hr]
      ahead := fun y _ => hr y
      behind := fun y _ hy => absurd hy (by omega) }
  · have hv' : ¬ s.vcounter = 0 := fun e => hv (s.vcounter_eq_zero.1 e)
    have hs : RowsInv s s.vcounter.toNat := ⟨h.inv3, h.inv4, h.ahead hv, h.behind⟩
    exact hs.congr (by simp) (by rw [beforeBand_usage, if_neg hv'])
      fun y => by rw [beforeBand_recRead, if_neg hv']

/-- Step 5 records the row that it composes and marks its mode; a row outside the band stays UNREC (40_tick.md R106,
41_compose.md R136, R137). -/
theorem RowsInv.bandRow (hc : s.cfg.Ok) (h : RowsInv s s.vcounter.toNat) :
    RowsInv (bandRow s) (s.vcounter.toNat + 1) := by
  by_cases hb : s.cfg.InBand s.vcounter.toNat
  · obtain ⟨m, -, -, -, -, -, -, -, hr, hu⟩ := bandRow_spec s hc hb
    have hcfg : (Machine.bandRow s).cfg = s.cfg := by simp
    have hne : ∀ {y}, y ≠ s.vcounter.toNat → (Machine.bandRow s).recRead y = s.recRead y := fun hy => by
      rw [hr, if_neg hy]
    have hown : (Machine.bandRow s).recRead s.vcounter.toNat = .mode m := by rw [hr, if_pos rfl]
    refine ⟨?_, fun k => ?_, fun y hy => ?_, fun y hy hlt => ?_⟩
    · rw [Inv3, hcfg]
      intro y hy
      have hyv : y ≠ s.vcounter.toNat := fun e => hy (e ▸ hb)
      rw [hne hyv, h.inv3 y hy]
    · rw [hu, Usage.get_mark, Bool.or_eq_true, decide_eq_true_eq, h.inv4 k, hcfg]
      constructor
      · rintro (⟨y, hy, hk⟩ | rfl)
        · refine ⟨y, hy, ?_⟩
          rw [hne fun e => ?_, hk]
          rw [e, h.ahead _ le_rfl] at hk
          cases hk
        · exact ⟨_, hb, hown⟩
      · rintro ⟨y, hy, hk⟩
        by_cases e : y = s.vcounter.toNat
        · rw [e, hown] at hk
          cases hk
          exact .inr rfl
        · exact .inl ⟨y, hy, by rw [← hne e, hk]⟩
    · rw [hne (by omega), h.ahead y (by omega)]
    · by_cases e : y = s.vcounter.toNat
      · rw [e, hown]
        exact nofun
      · rw [hne e]
        exact h.behind y (hcfg ▸ hy) (by omega)
  · have hbr : Machine.bandRow s = s := by rw [Machine.bandRow, if_neg hb]
    rw [hbr]
    refine ⟨h.inv3, h.inv4, fun y hy => h.ahead y (by omega), fun y hy hlt => h.behind y hy ?_⟩
    have : y ≠ s.vcounter.toNat := fun e => hb (e ▸ hy)
    omega

theorem Running.rowsInv_endLine (h : Running s) (hc : s.cfg.Ok) : RowsInv (endLine s) (s.vcounter.toNat + 1) := by
  have hv : (beforeBand s).vcounter = s.vcounter := by simp
  have hb := RowsInv.bandRow (s := beforeBand s) (by simpa using hc) (by rw [hv]; exact h.rowsInv_beforeBand)
  rw [hv] at hb
  exact hb.congr (by simp) (endLine_usage s) (endLine_recRead s)

/-! The end of a TICK. -/

/-- A state inside a frame, the read window closed. -/
theorem RowsInv.running (h : RowsInv s s.vcounter.toNat) (hh : s.hcounter = 0) (h2 : Inv2 s)
    (hf : s.status.fr = false) : Running s where
  inv1 := by simp [Inv1, hh]
  inv2 := h2
  inv3 := h.inv3
  inv4 := h.inv4
  inv5 := fun e => by simp [hf] at e
  ahead := fun _ => h.ahead
  behind := h.behind

/-- The end of a frame: the counters are back at 0, record and flags stay (40_tick.md R110, 42_normalize.md R159). -/
theorem RowsInv.running_endFrame {v : Nat} (h : RowsInv s v) (hc : s.cfg.Ok) (hh : s.hcounter = 0) :
    Running (endFrame s) := by
  have hpos := hc.lines.1
  have h' : RowsInv (endFrame s) v := h.congr (by simp) (by simp) (State.recRead_congr (by simp))
  exact {
    inv1 := by simp [Inv1, hh]
    inv2 := .inl ⟨by simp, by simp; omega⟩
    inv3 := h'.inv3
    inv4 := h'.inv4
    inv5 := fun _ => by simp
    ahead := fun e => by simp at e
    behind := fun y _ hy => by simp at hy }

/-- Latching a threshold writes neither record nor flags (40_tick.md R110). -/
theorem RowsInv.latch {n : Nat} (h : RowsInv s n) (v : BitVec 16) : RowsInv (s.queryExtra.2.setFrameLines v) n :=
  h.congr (by simp) (by simp) (State.recRead_congr (by simp))

/-- A TICK that passes its entry checks keeps the invariant: inside a frame the next row is reached, at its end the
counters start again, and a refused threshold halts the engine. -/
theorem execTick_engineInv_of_entryOk (hs : StaticInv s) (hr : Running s) (hen : EntryOk s)
    (he : exec .tick s = .next t) : EngineInv t := by
  have hc := hs.cfgOk
  have hl := hs.endLine
  have hrows := hr.rowsInv_endLine hc
  have hv := endLine_vcounter hc hen
  rcases execTick_cases hc hen with ⟨hd, hw, h⟩ | ⟨-, -, h⟩ | ⟨-, -, h⟩ | ⟨hd, ha, hb, u, hu, hfl, h⟩ <;>
    rw [h] at he <;> cases he
  · have h2 : Inv2 (endLine s) := by
      have := hr.inv2
      simp only [Inv2, endLine_frame, hv]
      omega
    exact engineInv_iff.2 ⟨hl, fun _ => RowsInv.running (hv ▸ hrows) (by simp) h2 (by simp)⟩
  · exact engineInv_iff.2 ⟨hl.endFrame, fun _ => hrows.running_endFrame hl.cfgOk (by simp)⟩
  · exact engineInv_iff.2 ⟨hl.queryExtra.raiseFatal _ _, fun hf => by simp at hf⟩
  · have hus : StaticInv u := hu ▸ hl.latch _
    have hur : RowsInv u (s.vcounter.toNat + 1) := hu ▸ hrows.latch _
    have huh : u.hcounter = 0 := by simp [hu]
    have huv : u.vcounter.toNat = s.vcounter.toNat + 1 := by simpa [hu] using hv
    split
    · exact engineInv_iff.2 ⟨hus.endFrame, fun _ => hur.running_endFrame hus.cfgOk huh⟩
    · have h2 : Inv2 u := by
        have hcfg : u.cfg = s.cfg := by simp [hu]
        have hn := hd.2
        rw [Inv2, hcfg, huv]
        omega
      exact engineInv_iff.2 ⟨hus, fun _ => RowsInv.running (huv ▸ hur) huh h2 (by simp [hu])⟩

/-- TICK keeps the invariant; a halted engine ignores it (60_exceptions.md R213). -/
theorem execTick_engineInv (h : EngineInv s) (he : exec .tick s = .next t) : EngineInv t := by
  obtain ⟨hs, hrun⟩ := engineInv_iff.1 h
  obtain ⟨-, rfl⟩ | ⟨hf, -⟩ := execTick_inv he
  · exact h
  · have hr := hrun hf
    exact execTick_engineInv_of_entryOk hs hr ⟨hf, hr.inv1, hr.inv2⟩ he

/-- Settles O11: by the kind of command, POWER clearing what the invariant speaks of, the reads and ILLEGAL leaving the
engine proper as it is, and TICK by the cases of its end. -/
theorem stepKeepsInv : Obligations.StepKeepsInv := by
  intro s t h he
  cases hcmds : s.cmds with
  | nil =>
    rw [step_of_cmds_nil h.cfgOk hcmds] at he
    cases he
    exact h
  | cons w rest =>
    rw [step_of_cmds_cons h.cfgOk hcmds] at he
    have hs := (s.setCmds_sameEngine rest).engineInv h
    by_cases hi : decode w = .tick
    · exact execTick_engineInv hs (hi ▸ he)
    · obtain ⟨-, rfl⟩ | ⟨-, hr⟩ | ⟨v, -, rfl⟩ := exec_cases hi he
      · exact execPower_engineInv hs
      · exact hr.sameEngine.engineInv hs
      · exact (State.raiseIllegal_sameEngine _ v).engineInv hs

end Sys2Proof.Machine

/-! SUPPORT. The storages (20_memory.md R50 to R56): the cells and record rows that a TICK leaves unchanged, a record
row outside the band, and a read repeated. -/

namespace Sys2Proof.Machine

variable {i : Instr} {s t u : State}

/-! The cells that the Normalizer leaves unchanged. -/

/-- What the stretch leaves in a cell depends on the cells and the record row of its own row alone. -/
theorem stretchedRead_congr {y : Nat} (hc : s.cfg = t.cfg) (hr : s.recRead y = t.recRead y)
    (hf : ∀ x < 65536, s.fbRead y x = t.fbRead y x) {x : Nat} (hx : x < 65536) :
    stretchedRead s y x = stretchedRead t y x := by
  unfold stretchedRead
  rw [hr, hc]
  split
  · exact hf x hx
  · rw [hf x hx, hf _ (Nat.lt_of_le_of_lt (Nat.div_le_self ..) hx)]

/-- The stretch writes no cell at or beyond the canonical width (42_normalize.md R154). -/
theorem stretchedRead_of_canonicalWidth_le (s : State) (y : Nat) {x : Nat} (hx : s.cfg.canonicalWidth ≤ x) :
    stretchedRead s y x = s.fbRead y x := by
  unfold stretchedRead
  split
  · rfl
  · rw [if_neg (Nat.not_lt.2 hx)]

/-- The row pass, cell by cell: each of its rows is stretched by its own record, and no other row is touched
(42_normalize.md R152). -/
theorem normalizeRows_fbRead (hc : s.cfg.Ok) (y n y' : Nat) {x : Nat} (hx : x < 65536) :
    (normalizeRows y n s).fbRead y' x = if y ≤ y' ∧ y' < y + n then stretchedRead s y' x else s.fbRead y' x := by
  induction n generalizing y s with
  | zero => rw [if_neg (by omega)]; rfl
  | succ n ih =>
    have hrow : ∀ x < 65536, (normalizeRow y s).fbRead y' x = if y' = y then stretchedRead s y x else s.fbRead y' x :=
      fun x hx => normalizeRow_read s hc y y' x hx
    rw [normalizeRows, ih (by simpa using hc)]
    by_cases hy : y' = y
    · subst hy
      rw [if_neg (by omega), if_pos (by omega), hrow x hx, if_pos rfl]
    · have hst : stretchedRead (normalizeRow y s) y' x = stretchedRead s y' x :=
        stretchedRead_congr (by simp) (State.recRead_congr (by simp) y') (fun x hx => by rw [hrow x hx, if_neg hy]) hx
      rw [hst, hrow x hx, if_neg hy]
      exact if_congr (by omega) rfl rfl

/-- The Normalizer, cell by cell: a uniform frame keeps every cell, any other has its band stretched row by row
(42_normalize.md R151, R152). -/
theorem normalizeFrame_fbRead (hc : s.cfg.Ok) (y : Nat) {x : Nat} (hx : x < 65536) :
    (normalizeFrame s).fbRead y x =
      if s.usage.sole = none ∧ s.cfg.InBand y then stretchedRead s y x else s.fbRead y x := by
  have hd : ∀ y x, (s.setDiag 0).fbRead y x = s.fbRead y x := State.fbRead_congr (by simp) (by simp)
  cases hu : s.usage.sole with
  | some m =>
    rw [if_neg (by simp)]
    exact State.fbRead_congr (by simp [normalizeFrame, hu]) (by simp) y x
  | none =>
    have hst : stretchedRead (s.setDiag 0) y x = stretchedRead s y x :=
      stretchedRead_congr (by simp) (State.recRead_congr (by simp) y) (fun x _ => hd y x) hx
    rw [State.fbRead_congr (t := normalizeRows s.cfg.activeStart s.cfg.activeHeight (s.setDiag 0))
        (by simp [normalizeFrame, hu]) (by simp),
      normalizeRows_fbRead (by simpa using hc) _ _ _ hx, hst, hd]
    exact if_congr (by simp [Cfg.InBand, Cfg.activeEnd]) rfl rfl

/-- The end of a frame writes no cell outside the band or at or beyond the canonical width (42_normalize.md R159). -/
theorem endFrame_fbRead (hc : s.cfg.Ok) {y x : Nat} (hx : x < 65536)
    (h : ¬ s.cfg.InBand y ∨ s.cfg.canonicalWidth ≤ x) : (endFrame s).fbRead y x = s.fbRead y x := by
  set v := (s.setVcounter 0).setFrameLines 0 with hv
  have hcfg : v.cfg = s.cfg := rfl
  rw [State.fbRead_congr (s := endFrame s) (t := normalizeFrame v) (by simp [endFrame, tickStep8c, hv])
      (by simp [endFrame, tickStep8c, hv]),
    normalizeFrame_fbRead (hcfg ▸ hc) y hx, hcfg]
  split
  · next hb =>
    exact stretchedRead_of_canonicalWidth_le v y (h.resolve_left (not_not_intro hb.2))
  · rfl

/-! What a TICK leaves unchanged. -/

/-- From s to t nothing changed that no TICK changes (20_memory.md R51, R52, 40_tick.md R112): the configuration, the
response, the pending words, ILL and RANGE; the cells outside the band and beyond the canonical width; away from the
frame start, the record but for the row of s, and the usage flags but for those the line sets. A record row outside the
band may only become UNREC. -/
structure TickKeeps (s t : State) : Prop where
  cfg : t.cfg = s.cfg
  resp : t.resp = s.resp
  cmds : t.cmds = s.cmds
  ill : t.status.ill = s.status.ill
  range : t.status.range = s.status.range
  cells : ∀ y x, x < 65536 → ¬ s.cfg.InBand y ∨ s.cfg.canonicalWidth ≤ x → t.fbRead y x = s.fbRead y x
  record : s.vcounter.toNat ≠ 0 → ∀ y, y ≠ s.vcounter.toNat → t.recRead y = s.recRead y
  recordOutside : ∀ y, ¬ s.cfg.InBand y → t.recRead y = s.recRead y ∨ t.recRead y = .unrec
  usage : s.vcounter.toNat ≠ 0 → ∀ m, s.usage.get m = true → t.usage.get m = true
  usageOutside : s.vcounter.toNat ≠ 0 → ¬ s.cfg.InBand s.vcounter.toNat → t.usage = s.usage

/-- What a TICK that does not end the frame leaves unchanged beyond that: the viewport, DIAG and every cell outside its
own row. -/
structure LineKeeps (s t : State) : Prop extends TickKeeps s t where
  vp : t.vp = s.vp
  diag : t.status.diag = s.status.diag
  rows : ∀ y x, x < 65536 → y ≠ s.vcounter.toNat → t.fbRead y x = s.fbRead y x

theorem LineKeeps.refl (s : State) : LineKeeps s s where
  cfg := rfl
  resp := rfl
  cmds := rfl
  ill := rfl
  range := rfl
  cells _ _ _ _ := rfl
  record _ _ _ := rfl
  recordOutside _ _ := .inl rfl
  usage _ _ h := h
  usageOutside _ _ := rfl
  vp := rfl
  diag := rfl
  rows _ _ _ _ := rfl

/-- A write to none of the fields that `LineKeeps` speaks of keeps it: of STATUS, to FR, FATAL and CAUSE alone. -/
theorem LineKeeps.congr (h : LineKeeps s t) (hcfg : u.cfg = t.cfg := by simp) (hfb : u.fb = t.fb := by simp)
    (hrec : u.record = t.record := by simp) (huse : u.usage = t.usage := by simp) (hvp : u.vp = t.vp := by simp)
    (hresp : u.resp = t.resp := by simp) (hcmds : u.cmds = t.cmds := by simp)
    (hst : u.status = { t.status with
      fr := u.status.fr, fatal := u.status.fatal, cause := u.status.cause } := by simp) :
    LineKeeps s u where
  cfg := hcfg.trans h.cfg
  resp := hresp.trans h.resp
  cmds := hcmds.trans h.cmds
  ill := by rw [hst]; exact h.ill
  range := by rw [hst]; exact h.range
  cells y x hx hn := (State.fbRead_congr hfb hcfg y x).trans (h.cells y x hx hn)
  record hv y hy := (State.recRead_congr hrec y).trans (h.record hv y hy)
  recordOutside y hy := by rw [State.recRead_congr hrec]; exact h.recordOutside y hy
  usage hv m hm := huse ▸ h.usage hv m hm
  usageOutside hv hb := huse.trans (h.usageOutside hv hb)
  vp := hvp.trans h.vp
  diag := by rw [hst]; exact h.diag
  rows y x hx hy := (State.fbRead_congr hfb hcfg y x).trans (h.rows y x hx hy)

/-- A line writes its own row, its record entry and its flag, and clears record and flags at a frame start
(40_tick.md R102, R106). -/
theorem endLine_lineKeeps (hc : s.cfg.Ok) : LineKeeps s (endLine s) := by
  obtain ⟨hcell, hrec, hoff, hon⟩ := endLine_band hc
  have hown : ∀ y, ¬ s.cfg.InBand y → ¬ s.cfg.InBand s.vcounter.toNat ∨ y ≠ s.vcounter.toNat := fun y hy =>
    or_iff_not_imp_left.2 fun hb e => hy (e ▸ not_not.1 hb)
  exact {
    cfg := by simp
    resp := by simp
    cmds := by simp
    ill := by simp
    range := by simp
    cells := fun y x hx h => hcell y x hx (h.elim (fun hy => (hown y hy).imp_right .inl) fun hw => .inr (.inr hw))
    record := fun hv y hy => by rw [hrec y (.inr hy), if_neg hv]
    recordOutside := fun y hy => by
      rw [hrec y (hown y hy)]
      split
      · exact .inr rfl
      · exact .inl rfl
    usage := fun hv m hm => by
      by_cases hb : s.cfg.InBand s.vcounter.toNat
      · obtain ⟨k, -, hu⟩ := hon hb
        rw [hu, if_neg hv, Usage.get_mark, hm, Bool.true_or]
      · rw [hoff hb, if_neg hv, hm]
    usageOutside := fun hv hb => by rw [hoff hb, if_neg hv]
    vp := by simp
    diag := by simp
    rows := fun y x hx hy => hcell y x hx (.inr (.inl hy)) }

/-- A line up to the check of its budget (40_tick.md R109): the counters alone are not yet those of the next row. -/
theorem afterLine_lineKeeps (hc : s.cfg.Ok) : LineKeeps s (afterLine s) :=
  (endLine_lineKeeps hc).congr rfl rfl rfl rfl rfl rfl rfl rfl

theorem LineKeeps.queryExtra (h : LineKeeps s t) : LineKeeps s t.queryExtra.2 :=
  h.congr

theorem LineKeeps.raiseFatal (h : LineKeeps s t) (k : FatalCause) (info : Int) : LineKeeps s (t.raiseFatal k info) :=
  h.congr

/-- The end of a frame writes the counters, FR, DIAG, the viewport and cells of the band (42_normalize.md R159). -/
theorem TickKeeps.endFrame (h : TickKeeps s t) (hc : s.cfg.Ok) : TickKeeps s (endFrame t) where
  cfg := by simpa using h.cfg
  resp := by simpa using h.resp
  cmds := by simpa using h.cmds
  ill := by rw [endFrame_status]; exact h.ill
  range := by rw [endFrame_status]; exact h.range
  cells y x hx hn :=
    (endFrame_fbRead (h.cfg ▸ hc) hx (h.cfg.symm ▸ hn)).trans (h.cells y x hx hn)
  record hv y hy := (State.recRead_congr (by simp) y).trans (h.record hv y hy)
  recordOutside y hy := by
    rw [State.recRead_congr (s := Machine.endFrame t) (t := t) (by simp)]
    exact h.recordOutside y hy
  usage hv m hm := by simpa using h.usage hv m hm
  usageOutside hv hb := by simpa using h.usageOutside hv hb

/-- A TICK ends with no more than its line done, or with the read window open. -/
theorem execTick_keeps (hc : s.cfg.Ok) (he : exec .tick s = .next t) :
    LineKeeps s t ∨ (TickKeeps s t ∧ t.status.fr = true) := by
  obtain ⟨-, rfl⟩ | ⟨-, ⟨u, k, info, hu, rfl⟩ | ⟨u, hu, ht⟩⟩ := execTick_inv he
  · exact .inl (.refl t)
  · refine .inl (LineKeeps.raiseFatal ?_ k info)
    obtain rfl | rfl | rfl | rfl := hu
    · exact (LineKeeps.refl s).congr
    · exact afterLine_lineKeeps hc
    · exact (afterLine_lineKeeps hc).congr
    · exact (endLine_lineKeeps hc).queryExtra
  · have hl : LineKeeps s u := by
      obtain rfl | ⟨v, rfl⟩ := hu
      · exact endLine_lineKeeps hc
      · exact (endLine_lineKeeps hc).queryExtra.congr
    obtain rfl | rfl := ht
    · exact .inl hl
    · exact .inr ⟨hl.toTickKeeps.endFrame hc, by rw [endFrame_status]⟩

/-- Settles O23: a TICK that leaves the read window closed has its line's frame, and any other the frame of every
TICK. -/
theorem tickFrame : Obligations.TickFrame := by
  intro s t hc he
  have hkeeps := execTick_keeps hc he
  have hline : t.status.fr = false → LineKeeps s t := fun hf => hkeeps.resolve_right fun h => by simp [hf] at h
  have h : TickKeeps s t := hkeeps.elim (·.toTickKeeps) (·.1)
  exact ⟨h.cfg, h.resp, h.cmds, h.ill, h.range, fun hf => ⟨(hline hf).vp, (hline hf).diag⟩,
    fun y x hx hy => h.cells y x hx (.inl hy), fun y x hx hw => h.cells y x hx (.inr hw), fun hf => (hline hf).rows,
    h.record, h.recordOutside, h.usage, h.usageOutside⟩

/-! The reads. -/

theorem exec_rdrec_of_hasRow {y : BitVec 14} (h : HasRow s.cfg y) :
    exec (.rdrec y) s = .next (s.setResp ((s.recRead y.toNat).bits.setWidth 32)) := by
  simp only [exec, execRdrec, if_pos h]

theorem exec_rdrec_of_not_hasRow {y : BitVec 14} (h : ¬ HasRow s.cfg y) :
    exec (.rdrec y) s = .next (s.raiseRange (encode (.rdrec y))) := by
  simp only [exec, execRdrec, if_neg h]

theorem exec_rdpix_of_windowOpen {x y : BitVec 14} (h : HasCell s.cfg x y) (hw : s.status.fr = true) :
    exec (.rdpix x y) s = .next (s.setResp (s.fbRead y.toNat x.toNat)) := by
  rw [exec, execRdpix, if_pos h, State.windowOpen, if_pos hw]

theorem exec_rdpix_of_not_hasCell {x y : BitVec 14} (h : ¬ HasCell s.cfg x y) :
    exec (.rdpix x y) s = .next (s.raiseRange (encode (.rdpix x y))) := by
  simp only [exec, execRdpix, if_neg h]

theorem exec_rdreg_of_constrained {r : Reg} (h : s.status.fr = true ∨ isViewportReg r = false) :
    exec (.rdreg r) s = .next (s.setResp (s.readReg r)) := by
  rw [exec, execRdreg, if_neg]
  obtain h | h := h <;> simp [State.windowOpen, h]

/-- Settles O42, from INV3. -/
theorem recordOutsideBandReadsZero : Obligations.RecordOutsideBandReadsZero := by
  intro y s hi hf hy hb
  rw [exec_rdrec_of_hasRow hy, (hi.running hf).inv3 _ hb]
  rfl

/-- A read whose response is no draw either writes the response alone, or raises a Range fault that it raises again
wherever the configuration is the same (43_host_commands.md R172 to R176). -/
theorem exec_constrained_read (hi : isReadCommand i = true)
    (h : s.status.fr = true ∨ (∃ y, i = .rdrec y) ∨ ∃ r, i = .rdreg r ∧ isViewportReg r = false) :
    (∃ v, exec i s = .next (s.setResp v)) ∨
      ∃ w, ∀ t : State, t.cfg = s.cfg → exec i t = .next (t.raiseRange w) := by
  cases i with
  | tick => cases hi
  | power => cases hi
  | illegal w => cases hi
  | rdpix x y =>
    have hw : s.status.fr = true := by simpa using h
    by_cases hc : HasCell s.cfg x y
    · exact .inl ⟨_, exec_rdpix_of_windowOpen hc hw⟩
    · exact .inr ⟨_, fun t ht => exec_rdpix_of_not_hasCell (ht ▸ hc)⟩
  | rdreg r => exact .inl ⟨_, exec_rdreg_of_constrained (by simpa using h)⟩
  | rdrec y =>
    by_cases hr : HasRow s.cfg y
    · exact .inl ⟨_, exec_rdrec_of_hasRow hr⟩
    · exact .inr ⟨_, fun t ht => exec_rdrec_of_not_hasRow (ht ▸ hr)⟩

/-- Settles O46: the response that the first read left plays no part in the second, and a Range fault answers 0 each
time. -/
theorem readsAreIdempotent : Obligations.ReadsAreIdempotent := by
  intro i s t u hi h ht hu
  obtain ⟨v, hv⟩ | ⟨w, hw⟩ := exec_constrained_read hi h
  · have htv : t = s.setResp v := by rw [hv] at ht; cases ht; rfl
    rw [htv, exec_read_setResp v hi, ht] at hu
    cases hu
    rfl
  · rw [hw s rfl] at ht
    cases ht
    rw [hw (s.raiseRange w) rfl] at hu
    cases hu
    rfl

end Sys2Proof.Machine

/-! SUPPORT. The decoder and the encoder as inverses (30_encoding.md R70 to R80): what each row of the opcode map
decodes to, the two round trips, and the map, the reserved bits and the operands that follow from them. -/

namespace Sys2Proof

variable {w : Word}

/-! The rows of the opcode map. -/

theorem decode_of_tick_row (h : w.toNat = 0x10000000) : decode w = .tick := by
  rw [decode_def, if_pos h]

theorem decode_of_power_row (h : w.toNat = 0x20000000) : decode w = .power := by
  rw [decode_def, if_neg (by omega), if_pos h]

theorem decode_of_rdpix_row (h : w.toNat / 2 ^ 28 = 3) :
    decode w = .rdpix (w.extractLsb' 0 14) (w.extractLsb' 14 14) := by
  rw [decode_def, if_neg (by omega), if_neg (by omega), if_pos h]

theorem decode_of_rdreg_row {r : Reg} (h : w.toNat / 2 ^ 8 = 0x400000)
    (hr : Reg.ofNumber (w.extractLsb' 0 8) = some r) : decode w = .rdreg r := by
  rw [decode_def, if_neg (by omega), if_neg (by omega), if_neg (by omega), if_pos h, hr]

theorem decode_of_rdrec_row (h : w.toNat / 2 ^ 14 = 0x14000) : decode w = .rdrec (w.extractLsb' 0 14) := by
  rw [decode_def, if_neg (by omega), if_neg (by omega), if_neg (by omega), if_neg (by omega), if_pos h]

/-- A word that is no legal word is illegal (30_encoding.md R73, R74, R78). -/
theorem decode_of_not_legalWord (h : legalWord w = false) : decode w = .illegal w := by
  rw [← Bool.not_eq_true, legalWord_iff] at h
  obtain ⟨hw, -⟩ | ⟨hw, -⟩ | ⟨hw, -⟩ | ⟨r, hw, hr, -⟩ | ⟨hw, -⟩ | ⟨-, -, -, -, -, hd⟩ := decode_cases w
  · omega
  · omega
  · omega
  · have hle := r.number_le
    rw [← hr, field_toNat, Nat.pow_zero, Nat.div_one] at hle
    omega
  · omega
  · exact hd

/-! The round trips. -/

theorem illegal_wellFormed : (Instr.illegal w).wellFormed = true ↔ legalWord w = false := by
  simp [Instr.wellFormed]

theorem decode_encode_rdpix (x y : BitVec 14) : decode (encode (.rdpix x y)) = .rdpix x y := by
  have hx := x.isLt
  have hy := y.isLt
  have hw := encode_rdpix_toNat x y
  rw [decode_of_rdpix_row (by omega), Instr.rdpix.injEq, ← BitVec.toNat_inj, ← BitVec.toNat_inj, field_toNat,
    field_toNat, hw]
  omega

/-- The REG field of an encoded RDREG (30_encoding.md R71). -/
theorem encode_rdreg_regField (r : Reg) : (encode (.rdreg r)).extractLsb' 0 8 = r.number := by
  rw [← BitVec.toNat_inj, field_toNat, encode_rdreg_toNat]
  omega

theorem decode_encode_rdreg (r : Reg) : decode (encode (.rdreg r)) = .rdreg r := by
  have hw := encode_rdreg_toNat r
  exact decode_of_rdreg_row (by omega) (by rw [encode_rdreg_regField, r.ofNumber_number])

theorem decode_encode_rdrec (y : BitVec 14) : decode (encode (.rdrec y)) = .rdrec y := by
  have hy := y.isLt
  have hw := encode_rdrec_toNat y
  rw [decode_of_rdrec_row (by omega), Instr.rdrec.injEq, ← BitVec.toNat_inj, field_toNat, hw]
  omega

theorem decode_encode {i : Instr} (hi : i.wellFormed = true) : decode (encode i) = i := by
  cases i with
  | tick => exact decode_of_tick_row rfl
  | power => exact decode_of_power_row rfl
  | rdpix x y => exact decode_encode_rdpix x y
  | rdreg r => exact decode_encode_rdreg r
  | rdrec y => exact decode_encode_rdrec y
  | illegal w => exact decode_of_not_legalWord (illegal_wellFormed.1 hi)

/-- Decoding the bytes of a word decodes the word and hands back what follows (20_memory.md R53). -/
theorem decodeBytes_bytesOfWord_append (w : Word) (rest : List Byte) :
    decodeBytes (bytesOfWord w ++ rest) = .ok (decode w, rest) := by
  simp only [bytesOfWord, List.cons_append, List.nil_append, decodeBytes, wordOfBytes_bytesOfWord]

/-- Settles O1, constructor by constructor, and the bytes from the word they carry. -/
theorem decodeEncodeRoundTrip : Obligations.DecodeEncodeRoundTrip := by
  intro i hi
  have h := decode_encode hi
  exact ⟨h, fun rest => by rw [decodeBytes_bytesOfWord_append, h]⟩

theorem decode_wellFormed (w : Word) : (decode w).wellFormed = true := by
  obtain ⟨-, hd⟩ | ⟨-, hd⟩ | ⟨-, hd⟩ | ⟨r, -, -, hd⟩ | ⟨-, hd⟩ | ⟨h1, h2, h3, h4, h5, hd⟩ := decode_cases w <;> rw [hd]
  · rfl
  · rfl
  · rfl
  · rfl
  · rfl
  · rw [illegal_wellFormed, ← Bool.not_eq_true, legalWord_iff]
    omega

theorem encode_decode (w : Word) : encode (decode w) = w := by
  have hlt := w.isLt
  refine BitVec.eq_of_toNat_eq ?_
  obtain ⟨hw, hd⟩ | ⟨hw, hd⟩ | ⟨hw, hd⟩ | ⟨r, hw, hr, hd⟩ | ⟨hw, hd⟩ | ⟨-, -, -, -, -, hd⟩ := decode_cases w <;> rw [hd]
  · exact hw.symm
  · exact hw.symm
  · rw [encode_rdpix_toNat, field_toNat, field_toNat]
    omega
  · rw [encode_rdreg_toNat, ← hr, field_toNat]
    omega
  · rw [encode_rdrec_toNat, field_toNat]
    omega
  · rfl

/-- Settles O2, row by row of the decoder's inversion. -/
theorem encodeDecodeRoundTrip : Obligations.EncodeDecodeRoundTrip :=
  fun w => ⟨decode_wellFormed w, encode_decode w⟩

/-- The words of a command: its own encoding and no other (30_encoding.md R75). -/
theorem decode_eq_iff {i : Instr} (hi : i.wellFormed = true) : decode w = i ↔ w = encode i :=
  ⟨fun h => by rw [← h, encode_decode], fun h => by rw [h, decode_encode hi]⟩

/-! The opcode map. -/

theorem decode_eq_tick_iff : decode w = .tick ↔ w.toNat = 0x10000000 := by
  rw [decode_eq_iff rfl, ← BitVec.toNat_inj]
  rfl

theorem decode_eq_power_iff : decode w = .power ↔ w.toNat = 0x20000000 := by
  rw [decode_eq_iff rfl, ← BitVec.toNat_inj]
  rfl

theorem exists_decode_eq_rdpix_iff : (∃ x y, decode w = .rdpix x y) ↔ w.toNat / 2 ^ 28 = 3 := by
  refine ⟨fun ⟨x, y, hd⟩ => ?_, fun h => ⟨_, _, decode_of_rdpix_row h⟩⟩
  have hx := x.isLt
  have hy := y.isLt
  rw [(decode_eq_iff rfl).1 hd, encode_rdpix_toNat]
  omega

theorem exists_decode_eq_rdreg_iff :
    (∃ r, decode w = .rdreg r) ↔ w.toNat / 2 ^ 8 = 0x400000 ∧ (w.extractLsb' 0 8).toNat ≤ 9 := by
  refine ⟨fun ⟨r, hd⟩ => ?_, fun ⟨h, hle⟩ => ?_⟩
  · have hr := r.number_le
    rw [(decode_eq_iff rfl).1 hd, field_toNat, encode_rdreg_toNat]
    omega
  · cases hr : Reg.ofNumber (w.extractLsb' 0 8) with
    | some r => exact ⟨r, decode_of_rdreg_row h hr⟩
    | none => exact absurd (Reg.ofNumber_eq_none.1 hr) (by omega)

theorem exists_decode_eq_rdrec_iff : (∃ y, decode w = .rdrec y) ↔ w.toNat / 2 ^ 14 = 0x14000 := by
  refine ⟨fun ⟨y, hd⟩ => ?_, fun h => ⟨_, decode_of_rdrec_row h⟩⟩
  have hy := y.isLt
  rw [(decode_eq_iff rfl).1 hd, encode_rdrec_toNat]
  omega

theorem exists_decode_eq_illegal_iff : (∃ u, decode w = .illegal u) ↔ legalWord w = false := by
  refine ⟨fun ⟨u, hd⟩ => ?_, fun h => ⟨w, decode_of_not_legalWord h⟩⟩
  have hwf := decode_wellFormed w
  have henc := encode_decode w
  rw [hd] at hwf henc
  rw [← henc]
  exact illegal_wellFormed.1 hwf

/-- An OP that selects no format makes a word illegal (30_encoding.md R73). -/
theorem legalWord_of_unusedOp (h : w.extractLsb' 28 4 = 0#4 ∨ 6 ≤ (w.extractLsb' 28 4).toNat) :
    legalWord w = false := by
  rw [← BitVec.toNat_inj, field_toNat, BitVec.toNat_ofNat] at h
  rw [← Bool.not_eq_true, legalWord_iff]
  omega

/-- Settles O3, row by row: the mask of each row as arithmetic against what that row decodes to. -/
theorem decodeFollowsOpcodeMap : Obligations.DecodeFollowsOpcodeMap := by
  intro w
  simp only [selects_tick, selects_power, selects_rdpix, selects_rdreg, selects_rdrec]
  refine ⟨decode_eq_tick_iff, decode_eq_power_iff, exists_decode_eq_rdpix_iff, exists_decode_eq_rdreg_iff,
    exists_decode_eq_rdrec_iff, fun h => decode_of_not_legalWord (legalWord_of_unusedOp h), ?_⟩
  rw [exists_decode_eq_illegal_iff, ← Bool.not_eq_true, legalWord_iff, field_toNat]
  simp only [not_or, Nat.pow_zero, Nat.div_one]

/-- Settles O4: each format's reserved bits are among what makes a word legal. -/
theorem reservedBitSetIsIllegal : Obligations.ReservedBitSetIsIllegal := by
  intro w
  refine ⟨fun hop hz => ?_, fun hop hz => ?_, fun hop hz => ?_⟩ <;> apply decode_of_not_legalWord
  · obtain hop | hop := hop <;> simp [legalWord, hop, hz]
  · simp [legalWord, hop, hz]
  · simp [legalWord, hop, hz]

/-- Settles O5: RDPIX and RDREC from what their rows decode to, RDREG from the REG field of its encoding. -/
theorem operandsAreTheFields : Obligations.OperandsAreTheFields := by
  intro w
  refine ⟨fun x y hd => ?_, fun r hd => ?_, fun y hd => ?_⟩
  · have hrow := decode_of_rdpix_row (exists_decode_eq_rdpix_iff.1 ⟨x, y, hd⟩)
    exact Instr.rdpix.inj (hd.symm.trans hrow)
  · rw [(decode_eq_iff rfl).1 hd, encode_rdreg_regField]
  · have hrow := decode_of_rdrec_row (exists_decode_eq_rdrec_iff.1 ⟨y, hd⟩)
    exact Instr.rdrec.inj (hd.symm.trans hrow)

/-- Settles O6: fixed words, each evaluated on its own. -/
theorem encodingExamples : Obligations.EncodingExamples := by
  unfold Obligations.EncodingExamples
  simp only [List.forall_mem_cons, List.not_mem_nil, false_imp_iff, implies_true, and_true]
  decide

end Sys2Proof

/-! SUPPORT. RDREG (43_host_commands.md R173): each register's answer, in and out of the read window, and the register
numbers that name none. -/

namespace Sys2Proof.Machine

variable {s : State}

/-- Outside the read window a viewport register answers with a draw (43_host_commands.md R173, R176). -/
theorem exec_rdreg_of_windowClosed {r : Reg} (hf : s.status.fr = false) (hr : isViewportReg r = true) :
    exec (.rdreg r) s = .next (s.draw.2.setResp (wordOf s.draw.1)) := by
  rw [exec, execRdreg, if_pos (by simp [State.windowOpen, hf, hr])]
  rfl

/-- A word of the RDREG format whose register number is reserved is no legal word (30_encoding.md R78). -/
theorem legalWord_of_reservedReg {w : Word} (hw : w.extractLsb' 8 24 = 0x400000#24)
    (hr : 10 ≤ (w.extractLsb' 0 8).toNat) : legalWord w = false := by
  rw [← BitVec.toNat_inj, field_toNat, BitVec.toNat_ofNat] at hw
  rw [field_toNat] at hr
  rw [← Bool.not_eq_true, legalWord_iff]
  omega

/-- Settles O39: the constrained reads answer the register map, a closed window a draw, a reserved number is illegal. -/
theorem rdregResult : Obligations.RdregResult := by
  have constrained {r : Reg} (hr : isViewportReg r = false) (s : State) :
      exec (.rdreg r) s = .next (s.setResp (s.readReg r)) := exec_rdreg_of_constrained (.inr hr)
  have inWindow {s : State} (hf : s.status.fr = true) (r : Reg) :
      exec (.rdreg r) s = .next (s.setResp (s.readReg r)) := exec_rdreg_of_constrained (.inl hf)
  refine ⟨constrained rfl, fun s hf => ⟨inWindow hf _, inWindow hf _, inWindow hf _, inWindow hf _⟩, ?_,
    fun s => ⟨constrained rfl s, constrained rfl s, constrained rfl s, constrained rfl s, constrained rfl s⟩, rfl,
    fun w hw hr => decode_of_not_legalWord (legalWord_of_reservedReg hw hr)⟩
  intro s hf r hr
  have hviewport : ∀ r ∈ [Reg.vpX, .vpY, .vpW, .vpH], isViewportReg r = true := by decide
  exact exec_rdreg_of_windowClosed hf (hviewport r hr)

end Sys2Proof.Machine

/-! SUPPORT. The Normalizer's viewport and diagnostics (42_normalize.md R151 to R156), and the state in which a
frame ends. -/

namespace Sys2Proof.Machine

variable {s t : State}

theorem unrecRows_congr (h : s.record = t.record) (y n : Nat) : unrecRows s y n = unrecRows t y n := by
  induction n generalizing y with
  | zero => rfl
  | succ n ih => rw [unrecRows, unrecRows, ih, State.recRead_congr h]

theorem State.countDiag_toNat (s : State) :
    s.countDiag.status.diag.toNat = min (s.status.diag.toNat + 1) 65535 := by
  rw [State.countDiag, State.setDiag_status, BitVec.toNat_ofNat]
  omega

/-- The row pass reports the UNREC rows in ascending order and counts them in DIAG, up to its largest value
(42_normalize.md R153, R156). -/
theorem normalizeRows_diagnostics (y n : Nat) (s : State) :
    (normalizeRows y n s).hist = s.hist ++ (unrecRows s y n).map .diag ∧
    (normalizeRows y n s).status.diag.toNat = min (s.status.diag.toNat + (unrecRows s y n).length) 65535 := by
  induction n generalizing y s with
  | zero =>
    have := s.status.diag.isLt
    exact ⟨by simp [normalizeRows, unrecRows], by simp only [normalizeRows, unrecRows, List.length_nil]; omega⟩
  | succ n ih =>
    obtain ⟨hh, hd⟩ := ih (y + 1) (normalizeRow y s)
    rw [unrecRows_congr (t := s) (by simp)] at hh hd
    rw [normalizeRows, hh, hd, unrecRows]
    cases hr : s.recRead y with
    | unrec =>
      refine ⟨by simp [normalizeRow, hr, skipRow, State.countDiag], ?_⟩
      simp only [normalizeRow, hr, skipRow, State.emit_status, State.countDiag_toNat, if_true, List.length_cons]
      omega
    | mode m => simp [normalizeRow, hr]

/-- A uniform frame is cropped: the viewport and DIAG alone are written (42_normalize.md R151). -/
theorem normalizeFrame_of_uniform {m : Mode} (hu : s.usage.sole = some m) :
    normalizeFrame s = (s.setDiag 0).setVp (bandViewport s.cfg (s.cfg.width m)) := by
  simp [normalizeFrame, hu]

/-- Any other frame gets the canonical viewport, and its UNREC rows are reported and counted in DIAG
(42_normalize.md R152 to R156). -/
theorem normalizeFrame_of_not_uniform (hu : s.usage.sole = none) :
    (normalizeFrame s).vp = bandViewport s.cfg s.cfg.canonicalWidth ∧
    (normalizeFrame s).status.diag.toNat = min (unrecRows s s.cfg.activeStart s.cfg.activeHeight).length 65535 ∧
    (normalizeFrame s).hist = s.hist ++ (unrecRows s s.cfg.activeStart s.cfg.activeHeight).map .diag := by
  obtain ⟨hh, hd⟩ := normalizeRows_diagnostics s.cfg.activeStart s.cfg.activeHeight (s.setDiag 0)
  have hz : (s.setDiag 0).status.diag.toNat = 0 := rfl
  rw [unrecRows_congr (t := s) (by simp)] at hh hd
  rw [hz, Nat.zero_add] at hd
  simp only [normalizeFrame, State.setDiag_frame, normalizeRows_frame, hu]
  exact ⟨rfl, hd, hh⟩

/-- Exactly one flag set, that of m. -/
theorem Usage.sole_of_count {f : Usage} {m : Mode} (hn : f.count = 1) (hm : f.get m = true) : f.sole = some m := by
  obtain ⟨k, hk⟩ := Option.isSome_iff_exists.1 (f.sole_isSome.2 hn)
  rw [hk, (Usage.sole_eq_some.1 hk).2 m hm]

theorem Usage.sole_eq_none {f : Usage} : f.sole = Option.none ↔ f.count ≠ 1 := by
  rw [← Option.not_isSome_iff_eq_none, f.sole_isSome]

/-- The end of a uniform frame (40_tick.md R111, 42_normalize.md R151). -/
theorem endFrame_of_uniform {m : Mode} (hu : s.usage.sole = some m) :
    (endFrame s).vp = bandViewport s.cfg (s.cfg.width m) ∧ (endFrame s).status.diag = 0 ∧ (endFrame s).fb = s.fb ∧
    (endFrame s).hist = s.hist ++ [.frameDone] := by
  rw [endFrame, normalizeFrame_of_uniform (s := (s.setVcounter 0).setFrameLines 0) hu]
  exact ⟨rfl, rfl, rfl, rfl⟩

/-- The end of a mixed or an empty frame (40_tick.md R111, 42_normalize.md R152 to R156, R158). -/
theorem endFrame_of_not_uniform (hu : s.usage.sole = none) :
    (endFrame s).vp = bandViewport s.cfg s.cfg.canonicalWidth ∧
    (endFrame s).status.diag.toNat = min (unrecRows s s.cfg.activeStart s.cfg.activeHeight).length 65535 ∧
    (endFrame s).hist = s.hist ++ (unrecRows s s.cfg.activeStart s.cfg.activeHeight).map .diag ++ [.frameDone] := by
  obtain ⟨hvp, hd, hh⟩ := normalizeFrame_of_not_uniform (s := (s.setVcounter 0).setFrameLines 0) hu
  rw [unrecRows_congr (s := (s.setVcounter 0).setFrameLines 0) (t := s) rfl] at hd hh
  exact ⟨hvp, hd, congrArg (· ++ [Event.frameDone]) hh⟩

/-- The end of a mixed or an empty frame, cell by cell (42_normalize.md R152 to R154). -/
theorem endFrame_fbRead_of_not_uniform (hc : s.cfg.Ok) (hu : s.usage.sole = none) (y : Nat) {x : Nat} (hx : x < 65536) :
    (endFrame s).fbRead y x = if s.cfg.InBand y then stretchedRead s y x else s.fbRead y x := by
  set v := (s.setVcounter 0).setFrameLines 0 with hv
  have hcell : ∀ y x, v.fbRead y x = s.fbRead y x := State.fbRead_congr (by simp [hv]) (by simp [hv])
  rw [State.fbRead_congr (s := endFrame s) (t := normalizeFrame v) rfl rfl,
    normalizeFrame_fbRead (s := v) hc y hx, hcell,
    stretchedRead_congr (s := v) (t := s) rfl (State.recRead_congr rfl y) (fun x _ => hcell y x) hx]
  exact if_congr (and_iff_right hu) rfl rfl

end Sys2Proof.Machine

/-! SUPPORT. One TICK (40_tick.md R100 to R115): its entry checks, its end with or without a wrap, what its line leaves,
and its events. -/

namespace Sys2Proof.Machine

variable {s t : State}

/-! The entry checks (40_tick.md R100). -/

theorem execTick_of_step0_stop (h : tickStep0 s = .stop t) : exec .tick s = .next t := by
  simp only [exec, execTick, tickSteps, tickLine, h, Flow.andThen_stop, Flow.state_stop]

/-- TICK always answers a next state. -/
theorem execTick_tickOnce (s : State) : exec .tick s = .next (tickOnce s) := rfl

/-- A TICK depends on its state through step 0 alone. -/
theorem execTick_congr (h : tickStep0 s = tickStep0 t) : exec .tick s = exec .tick t := by
  simp only [exec, execTick, tickSteps, tickLine, h]

theorem tickStep0_of_fatal (hf : s.status.fatal = true) : tickStep0 s = .stop s := by
  rw [tickStep0, if_pos hf]

theorem tickStep0_of_hcounter_ne (hf : s.status.fatal = false) (hh : s.hcounter.toNat ≠ 0) :
    tickStep0 s = .stop ((s.setFr false).raiseFatal .hentry s.hcounter.toNat) := by
  have hne : s.hcounter ≠ 0 := fun e => hh (by rw [e]; rfl)
  rw [tickStep0, if_neg (by simp [hf]), if_pos (by simpa using hne)]
  rfl

theorem tickStep0_of_not_inv2 (hf : s.status.fatal = false) (hh : s.hcounter.toNat = 0) (h2 : ¬ Inv2 s) :
    tickStep0 s = .stop ((s.setFr false).raiseFatal .vcount s.vcounter.toNat) := by
  have hz : s.hcounter = 0 := BitVec.eq_of_toNat_eq hh
  rw [tickStep0, if_neg (by simp [hf]), if_neg (by simpa using hz), if_pos (by simpa [CountersLegal, Inv2] using h2)]
  rfl

/-- Settles O16: step 0 stops at the check that fails, and with none failing it only clears FR. -/
theorem tickEntryChecks : Obligations.TickEntryChecks := by
  intro s
  refine ⟨fun hf => execTick_of_step0_stop (tickStep0_of_fatal hf),
    fun hf hh => execTick_of_step0_stop (tickStep0_of_hcounter_ne hf hh),
    fun hf hh h2 => execTick_of_step0_stop (tickStep0_of_not_inv2 hf hh h2), fun h => execTick_congr ?_⟩
  have h' : EntryOk (s.setFr false) := by simpa [EntryOk, Inv2] using h
  rw [tickStep0_ok h]
  exact (tickStep0_ok h').symm

/-! The end of a TICK (40_tick.md R109 to R111). -/

/-- The end of a frame opens the read window and raises no fault (40_tick.md R111). -/
@[simp] theorem endFrame_flags (s : State) :
    (endFrame s).status.fr = true ∧ (endFrame s).status.fatal = s.status.fatal ∧
    (endFrame s).status.cause = s.status.cause := by
  rw [endFrame_status]
  exact ⟨rfl, rfl, rfl⟩

/-- The frame ends with this TICK, where its threshold is accepted (40_tick.md R110). -/
abbrev WrapDue (s : State) : Prop :=
  (LatchDue s ∧ extraAnswer s = 0) ∨ (s.frameLines.toNat ≠ 0 ∧ s.vcounter.toNat + 1 = s.frameLines.toNat)

/-- The state between the latch and the wrap of step 8b, the threshold latched where it is due (40_tick.md R110). -/
def afterLatch (s : State) : State :=
  if LatchDue s then
    (endLine s).queryExtra.2.setFrameLines (BitVec.ofNat 16 (s.cfg.nominalLines + extraAnswer s).toNat)
  else endLine s

/-- The latch changes the threshold, the history and the oracle's own fields alone. -/
@[simp] theorem afterLatch_frame (s : State) :
    (afterLatch s).cfg = s.cfg ∧ (afterLatch s).clock = (endLine s).clock ∧ (afterLatch s).hcounter = 0 ∧
    (afterLatch s).vcounter = (endLine s).vcounter ∧ (afterLatch s).usage = (endLine s).usage ∧
    (afterLatch s).record = (endLine s).record ∧ (afterLatch s).fb = (endLine s).fb ∧
    (afterLatch s).status = { s.status with fr := false } ∧ (afterLatch s).resp = s.resp ∧
    (afterLatch s).faults = s.faults := by
  unfold afterLatch; split <;> simp

theorem afterLatch_frameLines_of_not_latchDue (hl : ¬ LatchDue s) : (afterLatch s).frameLines = s.frameLines := by
  rw [afterLatch, if_neg hl]
  simp

theorem afterLatch_frameLines_of_latchDue (hc : s.cfg.Ok) (ht : ThresholdOk s) (hl : LatchDue s) :
    ((afterLatch s).frameLines.toNat : Int) = s.cfg.nominalLines + extraAnswer s := by
  have hlines := hc.lines
  have ha := ht hl
  rw [afterLatch, if_pos hl, State.setFrameLines_frameLines, BitVec.toNat_ofNat]
  omega

theorem afterLatch_hist (hc : s.cfg.Ok) (h : EntryOk s) :
    (afterLatch s).hist = (endLine s).hist ++ (if LatchDue s then [.extra (extraAnswer s)] else []) := by
  unfold afterLatch
  split
  · rw [State.setFrameLines_hist, State.queryExtra_hist, extraAnswer_eq hc h]
  · rw [List.append_nil]

/-- A TICK that passes its entry checks completes, with or without a wrap, or has its threshold refused. -/
theorem execTick_outcome (hc : s.cfg.Ok) (h : EntryOk s) (he : exec .tick s = .next t) :
    (ThresholdOk s ∧ t = if WrapDue s then endFrame (afterLatch s) else afterLatch s) ∨
    (LatchDue s ∧ ¬ ThresholdOk s ∧ t = (endLine s).queryExtra.2.raiseFatal .threshold (extraAnswer s)) := by
  rcases execTick_cases hc h with ⟨hl, hw, h'⟩ | ⟨h0, hw, h'⟩ | ⟨hl, hb, h'⟩ | ⟨hl, ha, hb, u, hu, -, h'⟩ <;>
    rw [h'] at he <;> cases he
  · refine .inl ⟨fun hd => absurd hd hl, ?_⟩
    rw [if_neg fun h => h.elim (fun h => hl h.1) hw, afterLatch, if_neg hl]
  · refine .inl ⟨fun hd => absurd hd.1 h0, ?_⟩
    rw [if_pos (.inr ⟨h0, hw⟩), afterLatch, if_neg fun hd => h0 hd.1]
  · exact .inr ⟨hl, fun ht => by have := ht hl; omega, rfl⟩
  · refine .inl ⟨fun _ => ⟨ha, hb⟩, ?_⟩
    have hu' : afterLatch s = u := by rw [afterLatch, if_pos hl, hu]
    have hw : WrapDue s ↔ extraAnswer s = 0 :=
      ⟨fun h => h.elim (·.2) fun h => absurd hl.1 h.1, fun h => .inl ⟨hl, h⟩⟩
    rw [hu']
    exact if_congr hw.symm rfl rfl

/-- A TICK without a fault completes: its entry checks pass and its threshold is accepted. -/
theorem execTick_of_noFault (hc : s.cfg.Ok) (hf : s.status.fatal = false) (he : exec .tick s = .next t)
    (hn : t.faults = s.faults) :
    EntryOk s ∧ ThresholdOk s ∧ t = if WrapDue s then endFrame (afterLatch s) else afterLatch s := by
  have h : EntryOk s := by
    by_contra h
    rcases execTick_entry h with ⟨hf', -⟩ | ⟨-, k, info, h'⟩
    · simp [hf] at hf'
    · rw [h'] at he
      cases he
      simp at hn
  obtain ⟨ht, he'⟩ | ⟨-, -, rfl⟩ := execTick_outcome hc h he
  · exact ⟨h, ht, he'⟩
  · simp at hn

/-- What every completing TICK leaves: the cycles counted, no fault, and the counters moved or wrapped
(40_tick.md R109 to R111). -/
structure TickCompleted (s t : State) : Prop where
  clock : t.clock = s.clock + BitVec.ofNat 64 s.cfg.lineCycles
  hcounter : t.hcounter.toNat = 0
  faults : t.faults = s.faults
  fatal : t.status.fatal = false
  cause : t.status.cause = s.status.cause
  fr : t.status.fr = true ↔ WrapDue s
  wrapped : WrapDue s → t.vcounter.toNat = 0 ∧ t.frameLines.toNat = 0
  moved : ¬ WrapDue s → t.vcounter.toNat = s.vcounter.toNat + 1
  kept : ¬ WrapDue s → ¬ LatchDue s → t.frameLines = s.frameLines
  latched : ¬ WrapDue s → LatchDue s → (t.frameLines.toNat : Int) = s.cfg.nominalLines + extraAnswer s

theorem tickCompleted_of_thresholdOk (hc : s.cfg.Ok) (h : EntryOk s) (ht : ThresholdOk s)
    (he : exec .tick s = .next t) : TickCompleted s t := by
  obtain ⟨-, rfl⟩ | ⟨-, hnt, -⟩ := execTick_outcome hc h he
  · exact {
      clock := by split <;> simp [endLine_clock hc]
      hcounter := by split <;> simp
      faults := by split <;> simp
      fatal := by split <;> simp [h.1]
      cause := by split <;> simp
      fr := by
        split
        · next hw => exact iff_of_true (by simp) hw
        · next hw => exact iff_of_false (by simp) hw
      wrapped := fun hw => by
        rw [if_pos hw]
        simp
      moved := fun hw => by
        rw [if_neg hw]
        simp [endLine_vcounter hc h]
      kept := fun hw hl => by rw [if_neg hw, afterLatch_frameLines_of_not_latchDue hl]
      latched := fun hw hl => by rw [if_neg hw, afterLatch_frameLines_of_latchDue hc ht hl] }
  · exact absurd ht hnt

/-- A TICK inside the frame leaves legal counters: below the nominal count, or below the latched threshold. -/
theorem TickCompleted.entryOk (hd : TickCompleted s t) (h : EntryOk s) (ht : ThresholdOk s) (hcfg : t.cfg = s.cfg)
    (hw : ¬ WrapDue s) : EntryOk t := by
  obtain ⟨-, -, h2⟩ := h
  have hv := hd.moved hw
  refine ⟨hd.fatal, hd.hcounter, ?_⟩
  rw [Inv2, hcfg, hv]
  by_cases hl : LatchDue s
  · have := hd.latched hw hl
    have := ht hl
    omega
  · rw [hd.kept hw hl]
    omega

/-- Settles O17: the counters wrap exactly where the frame ends, and otherwise move by one line. -/
theorem tickCompletes : Obligations.TickCompletes := by
  intro s hc h ht
  have he := execTick_tickOnce s
  have hd := tickCompleted_of_thresholdOk hc h ht he
  have hfr : ¬ WrapDue s → (tickOnce s).status.fr = false := fun hw => Bool.not_eq_true _ ▸ mt hd.fr.1 hw
  refine ⟨_, he, hd.clock, hd.hcounter, hd.faults, hd.fatal, hd.cause, (execTick_cfg_resp he).2, ?_, ?_, ?_, ?_, ?_⟩
  · intro h0 hv
    have hl : ¬ LatchDue s := by omega
    have hw : ¬ WrapDue s := by omega
    exact ⟨hd.moved hw, by rw [hd.kept hw hl, h0], hfr hw⟩
  · intro hl ha
    have hw : ¬ WrapDue s := by omega
    exact ⟨(hd.moved hw).trans hl.2, hd.latched hw hl, hfr hw⟩
  · intro hl ha
    have hw : WrapDue s := .inl ⟨hl, ha⟩
    exact ⟨(hd.wrapped hw).1, (hd.wrapped hw).2, hd.fr.2 hw⟩
  · intro h0 hv
    have hl : ¬ LatchDue s := by omega
    have hw : ¬ WrapDue s := by omega
    exact ⟨hd.moved hw, hd.kept hw hl, hfr hw⟩
  · intro h0 hv
    have hw : WrapDue s := .inr ⟨h0, hv⟩
    exact ⟨(hd.wrapped hw).1, (hd.wrapped hw).2, hd.fr.2 hw⟩

/-- Settles O18: the refusal of the threshold finds the line done, the counters moved and the answer logged. -/
theorem badThresholdIsFatal : Obligations.BadThresholdIsFatal := by
  intro s hc h hl hb
  have he := execTick_tickOnce s
  obtain ⟨ht, -⟩ | ⟨-, -, ht⟩ := execTick_outcome hc h he
  · have := ht hl
    omega
  · refine ⟨_, he, ?_⟩
    rw [ht]
    have hv := (endLine_vcounter hc h).trans hl.2
    simp [endLine_clock hc, hv, hl.1, ← extraAnswer_eq hc h, FatalCause.code]

/-! The line and the end of a TICK as they appear in the record, the usage flags, the cells and the history. -/

/-- The events of a line, with those of the Composer (40_tick.md R115). -/
def lineEvents (s : State) (comp : List Event) : List Event :=
  chipEvents s.cfg .hsync ++ (if s.vcounter.toNat = 0 then chipEvents s.cfg .vsync else []) ++ [.dma s.cfg.preCycles] ++
    chipEvents s.cfg .hclock ++ comp ++ [.dma s.cfg.postCycles] ++ chipEvents s.cfg .vclock

theorem isInfix_lineEvents (s : State) (comp : List Event) : comp <:+: lineEvents s comp :=
  (List.suffix_append _ comp).isInfix.trans
    ((List.prefix_append _ [.dma s.cfg.postCycles]).trans (List.prefix_append _ (chipEvents s.cfg .vclock))).isInfix

theorem endLine_hist {comp : List Event} (h : (bandRow (beforeBand s)).hist = (beforeBand s).hist ++ comp) :
    (endLine s).hist = s.hist ++ lineEvents s comp := by
  have hl : (endLine s).hist = (afterLine s).hist := by simp [endLine]
  rw [hl, afterLine_hist, h, beforeBand_hist]
  simp only [lineEvents, State.vcounter_eq_zero, List.append_assoc]

theorem endLine_hist_of_not_inBand (hb : ¬ s.cfg.InBand s.vcounter.toNat) :
    (endLine s).hist = s.hist ++ lineEvents s [] := by
  refine endLine_hist ?_
  have hcfg : (beforeBand s).cfg = s.cfg := by simp
  have hv : (beforeBand s).vcounter = s.vcounter := by simp
  rw [bandRow, if_neg (by rw [hcfg, hv]; exact hb), List.append_nil]

/-- A line on a band row: its events, the cells of its row, its record entry and its flag (40_tick.md R106,
41_compose.md R132 to R138). -/
theorem endLine_of_inBand (hc : s.cfg.Ok) (hb : s.cfg.InBand s.vcounter.toNat) :
    ∃ m g px, px.length = s.cfg.width m ∧ AnswersInRange s.cfg px ∧
      (endLine s).hist = s.hist ++ lineEvents s (composerEvents s.cfg m g px) ∧
      (∀ x (hx : x < px.length), (endLine s).fbRead s.vcounter.toNat x = px[x].2) ∧
      (∀ x, s.cfg.width m ≤ x → x < 65536 → (endLine s).fbRead s.vcounter.toNat x = s.fbRead s.vcounter.toNat x) ∧
      (endLine s).recRead s.vcounter.toNat = .mode m ∧ (endLine s).usage.get m = true := by
  have hcfg : (beforeBand s).cfg = s.cfg := by simp
  have hv : (beforeBand s).vcounter = s.vcounter := by simp
  obtain ⟨m, g, px, hl, hpx, hh, hin, hout, hr, hu⟩ := bandRow_spec (beforeBand s) (hcfg ▸ hc) (by rwa [hcfg, hv])
  rw [hcfg] at hl hpx hh hout
  rw [hv] at hin hout hr
  refine ⟨m, g, px, hl, hpx, endLine_hist hh, fun x hx => ?_, fun x hw hx => ?_, ?_, ?_⟩
  · rw [endLine_fbRead, hin x hx]
  · rw [endLine_fbRead, hout _ x hx (fun h => Nat.not_lt.2 hw h.2)]
    exact State.fbRead_congr (by simp) hcfg _ _
  · rw [endLine_recRead, hr, if_pos rfl]
  · simp [endLine_usage, hu, Usage.get_mark]

/-- After its line a TICK writes neither the record nor the usage flags, and cells only where it ends the frame; the
history grows (40_tick.md R110, 42_normalize.md R159). -/
theorem execTick_afterLine (hc : s.cfg.Ok) (h : EntryOk s) (he : exec .tick s = .next t) :
    t.record = (endLine s).record ∧ t.usage = (endLine s).usage ∧ (t.status.fr = false → t.fb = (endLine s).fb) ∧
    ∃ es, t.hist = (endLine s).hist ++ es := by
  obtain ⟨-, rfl⟩ | ⟨-, -, rfl⟩ := execTick_outcome hc h he
  · split
    · obtain ⟨-, es, hh, -⟩ := endFrame_growth (afterLatch s)
      exact ⟨by simp, by simp, by simp, _, by rw [hh, afterLatch_hist hc h, List.append_assoc]⟩
    · exact ⟨by simp, by simp, by simp, _, afterLatch_hist hc h⟩
  · exact ⟨by simp, by simp, by simp, _, (endLine s).queryExtra_hist⟩

/-- The state after the line of a TICK that passes its entry checks. -/
theorem tickLine_state (hc : s.cfg.Ok) (h : EntryOk s) : (tickLine s).state = endLine s := by
  rw [tickLine_ok hc h]
  rfl

/-- Settles O22: the line composes the row, and what follows keeps the row's record entry, flag and events. -/
theorem tickComposesBandRow : Obligations.TickComposesBandRow := by
  intro s t hc h hb he
  obtain ⟨hrec, huse, hfb, es, hes⟩ := execTick_afterLine hc h he
  obtain ⟨m, g, px, hl, hpx, hh, hin, hout, hr, hu⟩ := endLine_of_inBand hc hb
  have hcfg := (execTick_cfg_resp he).1
  rw [tickLine_state hc h]
  refine ⟨⟨m, g, px, hl, hpx, ?_, hin, hout, ?_, huse ▸ hu⟩, fun hf => ?_⟩
  · rw [newEvents, hes, hh, List.append_assoc, List.drop_left]
    exact (isInfix_lineEvents s _).trans (List.prefix_append _ es).isInfix
  · rw [State.recRead_congr hrec, hr]
  · exact State.fbRead_congr (hfb hf) (by simp [hcfg])

/-- Settles O24: step 2 clears record and flags, and only row 0 can be composed before the TICK ends. -/
theorem frameStartClearsRecordAndUsage : Obligations.FrameStartClearsRecordAndUsage := by
  intro s t hc h hv he
  obtain ⟨hrec, huse, -, -⟩ := execTick_afterLine hc h he
  obtain ⟨-, hr, hoff, hon⟩ := endLine_band hc
  rw [hv] at hr hoff hon
  simp only [if_true] at hr hoff hon
  refine ⟨fun y hy => ?_, fun k => ?_⟩
  · rw [State.recRead_congr hrec, hr y (.inr hy)]
  · rw [State.recRead_congr hrec, huse]
    by_cases hb : s.cfg.InBand 0
    · obtain ⟨m, hm, hu⟩ := hon hb
      simp [hm, hu, Usage.get_mark, eq_comm]
    · simp [hr 0 (.inl hb), hoff hb]

/-- Settles O52: a TICK that opens the read window has ended its frame, and the Normalizer finds what the line left. -/
theorem tickNormalizesAtWrap : Obligations.TickNormalizesAtWrap := by
  intro s t hc h he hf
  have ht : t = endFrame (afterLatch s) := by
    obtain ⟨-, rfl⟩ | ⟨-, -, rfl⟩ := execTick_outcome hc h he
    · split
      · rfl
      · next hw => simp [hw] at hf
    · simp at hf
  have hcell : ∀ y x, (afterLatch s).fbRead y x = (endLine s).fbRead y x := State.fbRead_congr (by simp) (by simp)
  have hrec : (afterLatch s).record = (endLine s).record := by simp
  have hcfg : (afterLatch s).cfg = s.cfg := by simp
  have huse : (afterLatch s).usage = (endLine s).usage := by simp
  rw [tickLine_state hc h]
  refine ⟨fun y x hx hn => (endLine_band hc).1 y x hx ?_, by simp, by simp [ht], by simp [ht], ?_, ?_⟩
  · by_cases hy : y = s.vcounter.toNat
    · exact .inl fun hb => hn ⟨hy, hy ▸ hb⟩
    · exact .inr (.inl hy)
  · intro m hn hm
    obtain ⟨hvp, hd, hfb, -⟩ := endFrame_of_uniform (huse ▸ Usage.sole_of_count hn hm)
    rw [hcfg] at hvp
    exact ⟨ht ▸ hvp, ht ▸ hd, State.fbRead_congr (by rw [ht, hfb]; simp) (by simp [ht])⟩
  · intro hn
    have hu : (afterLatch s).usage.sole = none := huse ▸ Usage.sole_eq_none.2 hn
    obtain ⟨hvp, hd, -⟩ := endFrame_of_not_uniform hu
    rw [hcfg] at hvp hd
    refine ⟨ht ▸ hvp, by rw [ht, hd, unrecRows_congr hrec], fun y x hx => ?_⟩
    rw [ht, endFrame_fbRead_of_not_uniform (hcfg ▸ hc) hu y hx, hcfg, hcell,
      stretchedRead_congr (by simp) (State.recRead_congr hrec y) (fun x _ => hcell y x) hx]

/-! The events of a TICK (40_tick.md R113, R115). -/

/-- The events of the end of a frame: the Normalizer's reports, then the frame-complete signal (40_tick.md R111,
42_normalize.md R151 to R153). -/
def wrapEvents (s : State) : List Event :=
  (if s.usage.count = 1 then [] else (unrecRows s s.cfg.activeStart s.cfg.activeHeight).map .diag) ++ [.frameDone]

theorem wrapEvents_congr (hc : s.cfg = t.cfg) (hu : s.usage = t.usage) (hr : s.record = t.record) :
    wrapEvents s = wrapEvents t := by
  rw [wrapEvents, wrapEvents, hu, hc, unrecRows_congr hr]

theorem endFrame_hist (s : State) : (endFrame s).hist = s.hist ++ wrapEvents s := by
  unfold wrapEvents
  cases hu : s.usage.sole with
  | some m =>
    have hcount : s.usage.count = 1 := by rw [← Usage.sole_isSome, hu]; rfl
    obtain ⟨-, -, -, hh⟩ := endFrame_of_uniform hu
    rw [if_pos hcount, hh, List.nil_append]
  | none =>
    obtain ⟨-, -, hh⟩ := endFrame_of_not_uniform hu
    rw [if_neg (Usage.sole_eq_none.1 hu), hh, List.append_assoc]

/-- The Composer's part of a line's events: none outside the band, else those of one composed row (41_compose.md
R138). -/
def ComposedEvents (s : State) (comp : List Event) : Prop :=
  (¬ s.cfg.InBand s.vcounter.toNat → comp = []) ∧
  (s.cfg.InBand s.vcounter.toNat → ∃ m g px, px.length = s.cfg.width m ∧ AnswersInRange s.cfg px ∧
    comp = composerEvents s.cfg m g px)

theorem endLine_events (hc : s.cfg.Ok) :
    ∃ comp, ComposedEvents s comp ∧ (endLine s).hist = s.hist ++ lineEvents s comp := by
  by_cases hb : s.cfg.InBand s.vcounter.toNat
  · obtain ⟨m, g, px, hl, hpx, hh, -⟩ := endLine_of_inBand hc hb
    exact ⟨_, ⟨fun hn => absurd hb hn, fun _ => ⟨m, g, px, hl, hpx, rfl⟩⟩, hh⟩
  · exact ⟨[], ⟨fun _ => rfl, fun hb' => absurd hb' hb⟩, endLine_hist_of_not_inBand hb⟩

/-- The events of a TICK without a fault: those of the line, the query of a due latch, and at a wrap those of the end of
the frame. -/
theorem execTick_events (hc : s.cfg.Ok) (hf : s.status.fatal = false) (he : exec .tick s = .next t)
    (hn : t.faults = s.faults) :
    ∃ comp, ComposedEvents s comp ∧ t.hist = s.hist ++ (lineEvents s comp ++
      (if LatchDue s then [.extra (extraAnswer s)] else []) ++ (if t.status.fr = true then wrapEvents t else [])) := by
  obtain ⟨h, -, ht⟩ := execTick_of_noFault hc hf he hn
  obtain ⟨comp, hcomp, hh⟩ := endLine_events hc
  refine ⟨comp, hcomp, ?_⟩
  rw [← List.append_assoc, ← List.append_assoc, ← hh, ← afterLatch_hist hc h]
  by_cases hw : WrapDue s
  · rw [if_pos hw] at ht
    rw [if_pos (by simp [ht]), ht, endFrame_hist,
      wrapEvents_congr (s := endFrame (afterLatch s)) (t := afterLatch s) (by simp) (by simp) (by simp)]
  · rw [if_neg hw] at ht
    rw [if_neg (by simp [ht]), ht, List.append_nil]

/-- Settles O21: the line's events, the latch's query, and at a wrap the events of the end of the frame. -/
theorem tickEventSequence : Obligations.TickEventSequence := by
  intro s t hc hf he hn
  obtain ⟨comp, ⟨hout, hin⟩, hh⟩ := execTick_events hc hf he hn
  have hcfg := (execTick_cfg_resp he).1
  refine ⟨comp, if LatchDue s then [.extra (extraAnswer s)] else [], if t.status.fr = true then wrapEvents t else [], hh,
    hout, hin, fun hl => if_pos hl, fun hl => if_neg hl, fun hfr => if_neg (by simp [hfr]), fun hfr h1 => ?_,
    fun hfr h1 => ?_⟩
  · rw [if_pos hfr, wrapEvents, if_pos h1, List.nil_append]
  · rw [if_pos hfr, wrapEvents, if_neg h1, hcfg]

/-! The events that the cycle accounting and the frame period count (40_tick.md R113, R114). -/

/-- A DMA call, an extra-line query or a frame-complete signal. -/
def Event.isCounted (e : Event) : Bool :=
  e.isDma || e.isExtra || e == .frameDone

theorem chipEvents_counted (c : Cfg) {hook : Chip → Event} (h : ∀ k, (hook k).isCounted = false) :
    (chipEvents c hook).filter Event.isCounted = [] := by
  unfold chipEvents
  split <;> simp [h]

theorem pixelEvents_counted (c : Cfg) (g : Bool) (x : Nat) (px : List (Index × Color)) :
    (pixelEvents c g x px).filter Event.isCounted = [] := by
  induction px generalizing x with
  | nil => rfl
  | cons p rest ih => exact ih (x + 1)

theorem ComposedEvents.counted {comp : List Event} (h : ComposedEvents s comp) :
    comp.filter Event.isCounted = [] := by
  by_cases hb : s.cfg.InBand s.vcounter.toNat
  · obtain ⟨m, g, px, -, -, rfl⟩ := h.2 hb
    have hp := pixelEvents_counted s.cfg g 0 px
    cases hd : s.cfg.dual <;> rw [composerEvents, hd] <;> exact hp
  · rw [h.1 hb, List.filter_nil]

theorem lineEvents_counted {comp : List Event} (h : comp.filter Event.isCounted = []) :
    (lineEvents s comp).filter Event.isCounted = [.dma s.cfg.preCycles, .dma s.cfg.postCycles] := by
  have hook : ∀ hook ∈ [Event.hsync, .vsync, .hclock, .vclock], ∀ k, (hook k).isCounted = false := by
    simp [Event.isCounted, Event.isDma, Event.isExtra]
  have hv : (if s.vcounter.toNat = 0 then chipEvents s.cfg .vsync else []).filter Event.isCounted = [] := by
    split
    · exact chipEvents_counted _ (hook _ (by simp))
    · rfl
  simp only [lineEvents, List.filter_append, h, hv, chipEvents_counted s.cfg (hook .hsync (by simp)),
    chipEvents_counted s.cfg (hook .hclock (by simp)), chipEvents_counted s.cfg (hook .vclock (by simp))]
  rfl

theorem wrapEvents_counted (s : State) : (wrapEvents s).filter Event.isCounted = [.frameDone] := by
  have hd : ∀ ys : List Nat, (ys.map Event.diag).filter Event.isCounted = [] := fun ys => by
    induction ys with
    | nil => rfl
    | cons y ys ih => exact ih
  rw [wrapEvents, List.filter_append]
  split
  · rfl
  · rw [hd]
    rfl

/-- A TICK without a fault counts its two DMA calls, the query of a due latch, and the signal of a frame that ends. -/
theorem execTick_counted (hc : s.cfg.Ok) (hf : s.status.fatal = false) (he : exec .tick s = .next t)
    (hn : t.faults = s.faults) :
    ∃ es, t.hist = s.hist ++ es ∧ es.filter Event.isCounted =
      [.dma s.cfg.preCycles, .dma s.cfg.postCycles] ++ (if LatchDue s then [.extra (extraAnswer s)] else []) ++
        (if t.status.fr = true then [.frameDone] else []) := by
  obtain ⟨comp, hcomp, hh⟩ := execTick_events hc hf he hn
  refine ⟨_, hh, ?_⟩
  rw [List.filter_append, List.filter_append, lineEvents_counted hcomp.counted]
  congr 1
  · congr 1
    split <;> rfl
  · split
    · exact wrapEvents_counted t
    · rfl

theorem filter_of_counted {p : Event → Bool} (hp : ∀ e, p e = true → e.isCounted = true) (es : List Event) :
    es.filter p = (es.filter Event.isCounted).filter p := by
  rw [List.filter_filter]
  refine List.filter_congr fun e _ => ?_
  cases h : p e
  · rfl
  · rw [hp e h, Bool.and_true]

/-- Settles O20, from the counted events of a TICK and its completion. -/
theorem tickCycleAccounting : Obligations.TickCycleAccounting := by
  intro s t hc hf he hn
  obtain ⟨h, ht, -⟩ := execTick_of_noFault hc hf he hn
  obtain ⟨es, hh, hes⟩ := execTick_counted hc hf he hn
  have hd := tickCompleted_of_thresholdOk hc h ht he
  refine ⟨?_, ?_, hd.clock, hd.hcounter⟩
  · rw [newEvents, hh, List.drop_left, filter_of_counted (by simp +contextual [Event.isCounted]), hes]
    split <;> split <;> rfl
  · obtain ⟨-, -, hpre⟩ := hc.line
    exact Nat.add_sub_cancel' hpre

end Sys2Proof.Machine

/-! SUPPORT. Several TICKs: the cycles they count (40_tick.md R116) and the period of a frame (R114). -/

namespace Sys2Proof.Machine

variable {s t u : State}

theorem runTicks_cfg (n : Nat) (s : State) : (runTicks n s).cfg = s.cfg := by
  induction n with
  | zero => rfl
  | succ n ih => exact (execTick_cfg_resp (execTick_tickOnce _)).1.trans ih

theorem tickOnce_faults_grow (s : State) : s.faults <+: (tickOnce s).faults := by
  obtain hf | ⟨k, info, hf⟩ := (execTick_logs (execTick_tickOnce s)).2
  · rw [hf]
  · exact ⟨_, hf.symm⟩

theorem runTicks_faults_grow (n : Nat) (s : State) : s.faults <+: (runTicks n s).faults := by
  induction n with
  | zero => exact List.prefix_rfl
  | succ n ih => exact ih.trans (tickOnce_faults_grow _)

/-- The fault log only grows: where the last of n + 1 TICKs leaves it as it was, so did each of them. -/
theorem runTicks_noFault_of_succ {n : Nat} (h : (runTicks (n + 1) s).faults = s.faults) :
    (runTicks n s).faults = s.faults ∧ (tickOnce (runTicks n s)).faults = (runTicks n s).faults := by
  have hle : (runTicks n s).faults <+: (runTicks (n + 1) s).faults := tickOnce_faults_grow _
  have h' : (runTicks n s).faults = s.faults :=
    (h ▸ hle).eq_of_length_le (runTicks_faults_grow n s).length_le
  exact ⟨h', h.trans h'.symm⟩

/-- n TICKs without a fault: the engine is not halted, and the clock has counted their cycles (40_tick.md R116). -/
theorem runTicks_clock (hc : s.cfg.Ok) (hf : s.status.fatal = false) {n : Nat} (hn : (runTicks n s).faults = s.faults) :
    (runTicks n s).status.fatal = false ∧
      (runTicks n s).clock = s.clock + BitVec.ofNat 64 (n * s.cfg.lineCycles) := by
  induction n with
  | zero => exact ⟨hf, by simp [runTicks]⟩
  | succ n ih =>
    obtain ⟨hn', hlast⟩ := runTicks_noFault_of_succ hn
    obtain ⟨hf', hclock⟩ := ih hn'
    have hcfg := runTicks_cfg n s
    have he := execTick_tickOnce (runTicks n s)
    obtain ⟨h, ht, -⟩ := execTick_of_noFault (hcfg ▸ hc) hf' he hlast
    have hd := tickCompleted_of_thresholdOk (hcfg ▸ hc) h ht he
    refine ⟨hd.fatal, ?_⟩
    rw [runTicks, hd.clock, hclock, hcfg, BitVec.add_assoc, ← BitVec.ofNat_add, Nat.succ_mul]

/-- Settles O25: the fault log is empty at load, and each TICK without a fault adds LINE_CYCLES. -/
theorem clockCountsTicks : Obligations.ClockCountsTicks := by
  refine ⟨?_, fun s t he => ?_⟩
  · intro c tape draws n hc s hn
    rw [(runTicks_clock (s := s) hc rfl hn).2]
    exact BitVec.zero_add _
  · cases he
    simp

/-! The frame period (40_tick.md R114). -/

/-- From s to u the history gained the extra-line queries `asked` and that many frame-complete signals. -/
def Signals (s u : State) (asked : List Event) (frames : Nat) : Prop :=
  ∃ es, u.hist = s.hist ++ es ∧ es.filter Event.isExtra = asked ∧ es.count .frameDone = frames

theorem Signals.refl (s : State) : Signals s s [] 0 := ⟨[], by simp⟩

theorem Signals.trans {a b : List Event} {m n : Nat} (h : Signals s u a m) (h' : Signals u t b n) :
    Signals s t (a ++ b) (m + n) := by
  obtain ⟨es, hh, rfl, rfl⟩ := h
  obtain ⟨es', hh', rfl, rfl⟩ := h'
  exact ⟨es ++ es', by rw [hh', hh, List.append_assoc], List.filter_append .., List.count_append ..⟩

theorem Signals.newEvents {a : List Event} {n : Nat} (h : Signals s u a n) :
    (newEvents s u).filter Event.isExtra = a ∧ (newEvents s u).count .frameDone = n := by
  obtain ⟨es, hh, ha, hn⟩ := h
  rw [Machine.newEvents, hh, List.drop_left]
  exact ⟨ha, hn⟩

theorem execTick_signals (hc : s.cfg.Ok) (hf : s.status.fatal = false) (he : exec .tick s = .next t)
    (hn : t.faults = s.faults) :
    Signals s t (if LatchDue s then [.extra (extraAnswer s)] else []) (if t.status.fr = true then 1 else 0) := by
  obtain ⟨es, hh, hes⟩ := execTick_counted hc hf he hn
  refine ⟨es, hh, ?_, ?_⟩
  · rw [filter_of_counted (by simp +contextual [Event.isCounted]), hes]
    split <;> split <;> rfl
  · rw [← List.count_filter (p := Event.isCounted) rfl, hes]
    split <;> split <;> rfl

/-- u is reached from the frame start s inside the frame: n lines done, the threshold `lines` latched (0 where it is
not), the queries `asked` made and no frame-complete signal given. -/
structure InFrame (s u : State) (n lines : Nat) (asked : List Event) : Prop where
  cfg : u.cfg = s.cfg
  entry : EntryOk u
  vcounter : u.vcounter.toNat = n
  frameLines : u.frameLines.toNat = lines
  signals : Signals s u asked 0

/-- u is reached from the frame start s with the end of the frame: the queries `asked` made and one frame-complete
signal given. -/
structure FrameEnded (s u : State) (asked : List Event) : Prop where
  fr : u.status.fr = true
  vcounter : u.vcounter.toNat = 0
  frameLines : u.frameLines.toNat = 0
  signals : Signals s u asked 1

/-- A TICK with an accepted threshold either goes on inside the frame or ends it. -/
theorem InFrame.tick {n lines : Nat} {asked : List Event} (hc : s.cfg.Ok) (h : InFrame s u n lines asked)
    (ht : ThresholdOk u) :
    let asked' := asked ++ if LatchDue u then [.extra (extraAnswer u)] else []
    let lines' := if LatchDue u then (s.cfg.nominalLines + extraAnswer u).toNat else lines
    (WrapDue u → FrameEnded s (tickOnce u) asked') ∧
      (¬ WrapDue u → InFrame s (tickOnce u) (n + 1) lines' asked') := by
  have hcu : u.cfg.Ok := h.cfg ▸ hc
  have he := execTick_tickOnce u
  have hd := tickCompleted_of_thresholdOk hcu h.entry ht he
  have hsig := h.signals.trans (execTick_signals hcu h.entry.1 he hd.faults)
  have hcfg := (execTick_cfg_resp he).1
  refine ⟨fun hw => ?_, fun hw => ?_⟩
  · rw [if_pos (hd.fr.2 hw)] at hsig
    exact ⟨hd.fr.2 hw, (hd.wrapped hw).1, (hd.wrapped hw).2, hsig⟩
  · rw [if_neg fun e => hw (hd.fr.1 e)] at hsig
    refine ⟨hcfg.trans h.cfg, hd.entryOk h.entry ht hcfg hw, by rw [hd.moved hw, h.vcounter], ?_, hsig⟩
    split
    · next hl =>
      have := hd.latched hw hl
      rw [h.cfg] at this
      omega
    · next hl => rw [hd.kept hw hl, h.frameLines]

theorem InFrame.not_latchDue {n lines : Nat} {asked : List Event} (h : InFrame s u n lines asked)
    (hn : lines = 0 → n + 1 ≠ s.cfg.nominalLines) : ¬ LatchDue u := by
  rw [LatchDue, h.frameLines, h.vcounter, h.cfg]
  exact fun hl => hn hl.1 hl.2

/-- k lines that reach neither the latch nor the wrap stay inside the frame. -/
theorem InFrame.run {n lines : Nat} {asked : List Event} (hc : s.cfg.Ok) (h : InFrame s u n lines asked) {k : Nat}
    (hk : n + k < if lines = 0 then s.cfg.nominalLines else lines) : InFrame s (runTicks k u) (n + k) lines asked := by
  induction k with
  | zero => exact h
  | succ k ih =>
    have hi := ih (by omega)
    have hl := hi.not_latchDue fun h0 => by rw [if_pos h0] at hk; omega
    have hw : ¬ WrapDue (runTicks k u) := by
      rintro (hw | hw)
      · exact hl hw.1
      · rw [hi.frameLines, hi.vcounter] at hw
        rw [if_neg hw.1] at hk
        omega
    have := (hi.tick hc fun h => absurd h hl).2 hw
    rwa [if_neg hl, if_neg hl, List.append_nil] at this

/-- The line that reaches the latched threshold ends the frame. -/
theorem InFrame.tick_wrap {n lines : Nat} {asked : List Event} (hc : s.cfg.Ok) (h : InFrame s u n lines asked)
    (h0 : lines ≠ 0) (hn : n + 1 = lines) : FrameEnded s (tickOnce u) asked := by
  have hl := h.not_latchDue fun e => absurd e h0
  have hw : WrapDue u := .inr (by rw [h.frameLines, h.vcounter]; exact ⟨h0, hn⟩)
  have := (h.tick hc fun h => absurd h hl).1 hw
  rwa [if_neg hl, List.append_nil] at this

theorem runTicks_add (m n : Nat) (s : State) : runTicks (m + n) s = runTicks n (runTicks m s) := by
  induction n with
  | zero => rfl
  | succ n ih => rw [← Nat.add_assoc, runTicks, runTicks, ih]

theorem EngineInv.inFrame (h : EngineInv s) (hf : s.status.fatal = false) (hv : s.vcounter.toNat = 0)
    (hl : s.frameLines.toNat = 0) : InFrame s s 0 0 [] where
  cfg := rfl
  entry := ⟨hf, (h.running hf).inv1, (h.running hf).inv2⟩
  vcounter := hv
  frameLines := hl
  signals := .refl s

/-- From the latch on: the frame goes on up to line NOMINAL_LINES + a, a being the answer, and ends there. -/
theorem InFrame.run_latched {n : Nat} {asked : List Event} (hc : s.cfg.Ok) (h : InFrame s u n 0 asked)
    (hn : n + 1 = s.cfg.nominalLines) (ht : ThresholdOk u) :
    ∃ a : Nat, s.cfg.nominalLines + a ≤ s.cfg.bufH ∧
      (∀ k < a, InFrame s (runTicks k (tickOnce u)) (s.cfg.nominalLines + k) (s.cfg.nominalLines + a)
        (asked ++ [.extra a])) ∧
      FrameEnded s (runTicks a (tickOnce u)) (asked ++ [.extra a]) := by
  have hl : LatchDue u := by rw [LatchDue, h.frameLines, h.vcounter, h.cfg]; exact ⟨rfl, hn⟩
  obtain ⟨ha0, hab⟩ := ht hl
  rw [h.cfg] at hab
  obtain ⟨a, ha⟩ := Int.eq_ofNat_of_zero_le ha0
  obtain ⟨hend, hgo⟩ := h.tick hc ht
  rw [if_pos hl, ha] at hend hgo
  rw [if_pos hl] at hgo
  refine ⟨a, by omega, ?_⟩
  cases a with
  | zero => exact ⟨nofun, hend (.inl ⟨hl, ha⟩)⟩
  | succ a =>
    have hgo := hgo (by omega)
    rw [hn] at hgo
    have hrun : ∀ k < a + 1, InFrame s (runTicks k (tickOnce u)) (s.cfg.nominalLines + k)
        (s.cfg.nominalLines + (a + 1)) (asked ++ [.extra ↑(a + 1)]) :=
      fun k hk => hgo.run hc (by rw [if_neg (by omega)]; omega)
    exact ⟨hrun, (hrun a (by omega)).tick_wrap hc (by omega) (by omega)⟩

/-- Settles O26: the frame runs to the latch without a signal, and from there to its threshold. -/
theorem framePeriod : Obligations.FramePeriod := by
  intro s hi hf hv hl
  have hc := hi.cfgOk
  have hpos := hc.lines.1
  have hbefore : ∀ n < s.cfg.nominalLines, InFrame s (runTicks n s) n 0 [] := fun n hn => by
    have := (hi.inFrame hf hv hl).run hc (k := n) (by rw [if_pos rfl]; omega)
    rwa [Nat.zero_add] at this
  refine ⟨fun n hn => (hbefore n hn).signals.newEvents, fun hnf => ?_⟩
  obtain ⟨m, hm⟩ := Nat.exists_eq_add_of_le' hpos
  rw [hm] at hnf
  have hu := hbefore m (by omega)
  obtain ⟨-, hlast⟩ := runTicks_noFault_of_succ hnf
  obtain ⟨-, ht, -⟩ := execTick_of_noFault (runTicks_cfg m s ▸ hc) hu.entry.1 (execTick_tickOnce _) hlast
  obtain ⟨a, hab, hin, hend⟩ := hu.run_latched hc hm.symm ht
  have hshift : ∀ k, runTicks (s.cfg.nominalLines + k) s = runTicks k (tickOnce (runTicks m s)) := fun k => by
    rw [runTicks_add, hm]
    rfl
  rw [← hshift] at hend
  refine ⟨a, hab, fun n hn hna => ?_, hend.fr, hend.vcounter, hend.frameLines⟩
  obtain ⟨k, rfl⟩ := Nat.exists_eq_add_of_le hn
  by_cases hk : k < a
  · rw [if_neg (by omega), hshift]
    exact (hin k hk).signals.newEvents
  · obtain rfl : k = a := by omega
    rw [if_pos rfl]
    exact hend.signals.newEvents

end Sys2Proof.Machine

/-! SUPPORT. The Composer's statements (41_compose.md R131, R136 to R140): its entry check, what a composed row writes,
and that the cells, the record entry and the flag depend on the collaborators' answers alone. -/

namespace Sys2Proof.Machine

variable {s t : State}

/-! The entry check. -/

theorem compose_of_inBand (hb : s.cfg.InBand s.vcounter.toNat) : compose s = .go (composeRow s.vcounter.toNat s) :=
  if_pos hb

theorem compose_of_not_inBand (hb : ¬ s.cfg.InBand s.vcounter.toNat) :
    compose s = .stop (s.raiseFatal .band s.vcounter.toNat) :=
  if_neg hb

/-- Settles O28: the entry check fails before the first query, and step 5 does not call the Composer. -/
theorem composeOutsideBandIsFatal : Obligations.ComposeOutsideBandIsFatal :=
  ⟨fun _ hb => compose_of_not_inBand hb, fun s hb => by rw [tickStep5_eq, bandRow, if_neg hb]⟩

/-! What a composed row writes. -/

theorem composerEvents_length (c : Cfg) (m : Mode) (g : Bool) (px : List (Index × Color)) :
    (composerEvents c m g px).length = (if c.dual then 3 else 2) + 2 * px.length := by
  rw [composerEvents, List.length_cons, List.length_cons, List.length_append, pixelEvents_length]
  split
  · simp only [List.length_singleton]; omega
  · simp only [List.length_nil]; omega

/-- Composing a row keeps every field but the cells, the record, the usage flags, the history and the oracle's own
(41_compose.md R130). -/
theorem composeRow_eq (y : Nat) (s : State) :
    composeRow y s = { s with
      fb := (composeRow y s).fb, record := (composeRow y s).record, usage := (composeRow y s).usage
      hist := (composeRow y s).hist, tape := (composeRow y s).tape, draws := (composeRow y s).draws } := by
  apply State.ext_fields <;> simp

/-- Settles O27, from what a composed row writes and keeps. -/
theorem composeWritesTheRow : Obligations.ComposeWritesTheRow := by
  intro s t hc hb ht
  obtain rfl : composeRow s.vcounter.toNat s = t := Flow.go.inj ((compose_of_inBand hb).symm.trans ht)
  obtain ⟨m, g, px, hl, hpx, hh, hin, hout, hr, hu⟩ := composeRow_spec s.vcounter.toNat s hc
  exact ⟨m, g, px, hl, hpx, hh, hl ▸ composerEvents_length s.cfg m g px, hin, hout, hr,
    fun k => hu ▸ Usage.get_mark s.usage m k, composeRow_eq _ s⟩

/-! Composing in terms of the answers to its queries. -/

/-- One column writes the answer to its color query (41_compose.md R134, R135). -/
theorem composePixel_fbRead (y : Nat) (g : Bool) (x : Nat) (s : State) (y' x' : Nat) :
    (composePixel y g x s).fbRead y' x' =
      (s.fbWrite y x ((s.queryIndex x).2.queryResolve g (s.queryIndex x).1).1).fbRead y' x' :=
  State.fbRead_congr (by simp [composePixel, State.fbWrite]) (by simp) y' x'

/-- The frame buffer of a composed row is that of its columns. -/
theorem composeRow_fb (y : Nat) (s : State) :
    (composeRow y s).fb = (composeColumns y s.queryWidth.2.queryGray.1 0 (s.cfg.width s.queryWidth.1)
      s.queryWidth.2.queryGray.2.callRender).fb := by
  simp [composeRow]

/-- The record entry of a composed row is the answer to its resolution query (41_compose.md R132, R136). -/
theorem composeRow_recRead (y y' : Nat) (s : State) :
    (composeRow y s).recRead y' = if y' = y then .mode s.queryWidth.1 else s.recRead y' := by
  rw [State.recRead_congr (t := s.recWrite y (.mode s.queryWidth.1)) (by simp [composeRow, State.recWrite]),
    State.recRead_recWrite]

/-- The flag that a composed row sets is that of the answer to its resolution query (41_compose.md R132, R137). -/
theorem composeRow_usage (y : Nat) (s : State) : (composeRow y s).usage = s.usage.mark s.queryWidth.1 := by
  simp [composeRow]

theorem composeRow_fbRead_of_outside {y y' x' : Nat} (hc : s.cfg.Ok) (hx' : x' < 65536)
    (hout : ¬(y' = y ∧ x' < s.cfg.width s.queryWidth.1)) : (composeRow y s).fbRead y' x' = s.fbRead y' x' := by
  obtain ⟨m, -, -, -, -, -, -, hkeep, hr, -⟩ := composeRow_spec y s hc
  have hm : m = s.queryWidth.1 := by simpa [composeRow_recRead] using (hr y).symm
  exact hkeep y' x' hx' (hm ▸ hout)

@[simp] theorem Usage.mark_mark (u : Usage) (m : Mode) : (u.mark m).mark m = u.mark m := by
  cases m <;> rfl

/-! Two states that get the same answers. -/

/-- The collaborators give the same answers in both states: the oracle's own fields are equal, and the configuration,
which cuts an answer to its type. -/
structure SameAnswers (s t : State) : Prop where
  cfg : s.cfg = t.cfg
  tape : s.tape = t.tape
  draws : s.draws = t.draws

theorem SameAnswers.draw (h : SameAnswers s t) : s.draw.1 = t.draw.1 ∧ SameAnswers s.draw.2 t.draw.2 := by
  obtain ⟨ha, ht, hd⟩ := State.draw_congr h.tape h.draws
  exact ⟨ha, by simpa using h.cfg, ht, hd⟩

theorem SameAnswers.emit (h : SameAnswers s t) (d e : Event) : SameAnswers (s.emit d) (t.emit e) :=
  ⟨h.cfg, h.tape, h.draws⟩

theorem SameAnswers.fbWrite (h : SameAnswers s t) (y x : Nat) (c d : Color) :
    SameAnswers (s.fbWrite y x c) (t.fbWrite y x d) :=
  ⟨h.cfg, h.tape, h.draws⟩

theorem SameAnswers.queryWidth (h : SameAnswers s t) :
    s.queryWidth.1 = t.queryWidth.1 ∧ SameAnswers s.queryWidth.2 t.queryWidth.2 :=
  ⟨congrArg modeOf h.draw.1, h.draw.2.emit _ _⟩

theorem SameAnswers.queryGray (h : SameAnswers s t) :
    s.queryGray.1 = t.queryGray.1 ∧ SameAnswers s.queryGray.2 t.queryGray.2 :=
  ⟨congrArg grayOf h.draw.1, h.draw.2.emit _ _⟩

theorem SameAnswers.callRender (h : SameAnswers s t) : SameAnswers s.callRender t.callRender := by
  unfold State.callRender
  rw [← h.cfg]
  split
  · exact h.emit _ _
  · exact h

theorem SameAnswers.queryIndex (h : SameAnswers s t) (x : Nat) :
    (s.queryIndex x).1 = (t.queryIndex x).1 ∧ SameAnswers (s.queryIndex x).2 (t.queryIndex x).2 :=
  ⟨congrArg₂ cutIndex h.draw.2.cfg h.draw.1, h.draw.2.emit _ _⟩

theorem SameAnswers.queryResolve (h : SameAnswers s t) (g : Bool) (i j : Index) :
    (s.queryResolve g i).1 = (t.queryResolve g j).1 ∧ SameAnswers (s.queryResolve g i).2 (t.queryResolve g j).2 :=
  ⟨congrArg₂ cutColor h.draw.2.cfg h.draw.1, h.draw.2.emit _ _⟩

/-- One column writes the same color in both states (41_compose.md R134, R135). -/
theorem SameAnswers.composePixel (h : SameAnswers s t) (y : Nat) (g : Bool) (x : Nat) :
    SameAnswers (composePixel y g x s) (composePixel y g x t) ∧
    ∃ v, (∀ y' x', (composePixel y g x s).fbRead y' x' = (s.fbWrite y x v).fbRead y' x') ∧
      ∀ y' x', (composePixel y g x t).fbRead y' x' = (t.fbWrite y x v).fbRead y' x' := by
  obtain ⟨hv, hr⟩ := (h.queryIndex x).2.queryResolve g (s.queryIndex x).1 (t.queryIndex x).1
  refine ⟨hr.fbWrite y x _ _, _, composePixel_fbRead y g x s, fun y' x' => ?_⟩
  rw [composePixel_fbRead, hv]

/-- After n columns from column x on, a cell of these columns reads the same in both states, and so does a cell that
read the same before (41_compose.md R135, R139). -/
theorem SameAnswers.composeColumns_fbRead {y x n y' x' : Nat} (g : Bool) (h : SameAnswers s t) (hx : x + n ≤ 65536)
    (hx' : x' < 65536) (hcell : s.fbRead y' x' = t.fbRead y' x' ∨ (y' = y ∧ x ≤ x' ∧ x' < x + n)) :
    (composeColumns y g x n s).fbRead y' x' = (composeColumns y g x n t).fbRead y' x' := by
  induction n generalizing x s t with
  | zero => exact hcell.resolve_right (by omega)
  | succ n ih =>
    obtain ⟨hnext, v, hs, ht⟩ := h.composePixel y g x
    refine ih hnext (by omega) ?_
    rw [hs, ht, State.fbRead_fbWrite s v (by omega) hx', State.fbRead_fbWrite t v (by omega) hx']
    by_cases hown : y' = y ∧ x' = x
    · exact .inl (by rw [if_pos hown, if_pos hown])
    · rw [if_neg hown, if_neg hown]
      exact hcell.imp_right (by omega)

/-- Composing a row in two states that get the same answers leaves the same row, and every other cell that read the same
before (41_compose.md R139). -/
theorem SameAnswers.composeRow_fbRead {y y' x' : Nat} (h : SameAnswers s t) (hc : s.cfg.Ok) (hx' : x' < 65536)
    (hcell : s.fbRead y' x' = t.fbRead y' x' ∨ (y' = y ∧ x' < s.cfg.width s.queryWidth.1)) :
    (composeRow y s).fbRead y' x' = (composeRow y t).fbRead y' x' := by
  obtain ⟨hm, hw⟩ := h.queryWidth
  obtain ⟨hg, hq⟩ := hw.queryGray
  have hwidth : s.cfg.width s.queryWidth.1 ≤ 65536 := by
    have := s.cfg.width_le_canonical s.queryWidth.1
    have := hc.fit
    omega
  rw [State.fbRead_congr (composeRow_fb y s) (by simp), State.fbRead_congr (composeRow_fb y t) (by simp), ← hm, ← hg,
    ← h.cfg]
  have hqueries (u : State) : u.queryWidth.2.queryGray.2.callRender.fbRead y' x' = u.fbRead y' x' :=
    State.fbRead_congr (by simp) (by simp) y' x'
  refine hq.callRender.composeColumns_fbRead _ (by omega) hx' ?_
  rw [hqueries, hqueries]
  exact hcell.imp_right (by omega)

/-- Settles O29: the second run gets the first run's answers, so it overwrites the row, the entry and the flag with
what they hold. -/
theorem recomposingIsIdempotent : Obligations.RecomposingIsIdempotent := by
  intro y s hc once twice
  have h : SameAnswers ((once.setTape s.tape).setDraws s.draws) s := ⟨by simp [once], rfl, rfl⟩
  have hm := h.queryWidth.1
  refine ⟨fun y' x' hx' => h.composeRow_fbRead (h.cfg ▸ hc) hx' ?_, fun y' => ?_, ?_⟩
  · rw [hm, h.cfg]
    by_cases hin : y' = y ∧ x' < s.cfg.width s.queryWidth.1
    · exact .inr hin
    · exact .inl (composeRow_fbRead_of_outside hc hx' hin)
  · rw [composeRow_recRead, hm]
    split
    · next hy => rw [composeRow_recRead, if_pos hy]
    · rfl
  · rw [composeRow_usage, hm]
    simp [once, composeRow_usage]

end Sys2Proof.Machine

/-! SUPPORT. The Normalizer's statements (42_normalize.md R151 to R161): the stretch as a copy with replication, what
each kind of frame leaves, and the record and usage flags with which a TICK ends its frame. -/

namespace Sys2Proof

/-- The factor of a mode of the canonical width is 1 (00_scope.md R9). -/
theorem Cfg.Ok.factor_of_canonical {c : Cfg} (hc : c.Ok) {m : Mode} (hw : c.width m = c.canonicalWidth) :
    c.factor m = 1 := by
  rw [Cfg.factor, ← hw, Nat.div_self (hc.width_pos m)]

end Sys2Proof

namespace Sys2Proof.Machine

variable {s : State}

/-! The stretch. -/

/-- A copy with replication: below w * k each cell takes the old cell at its column divided by k, every other cell stays
(42_normalize.md R154, R157). -/
theorem stretch_fbRead (y w k : Nat) (s : State) (hw : w * k ≤ 65536) {y' x : Nat} (hx : x < 65536) :
    (stretch y w k s).fbRead y' x = if y' = y ∧ x < w * k then s.fbRead y (x / k) else s.fbRead y' x :=
  stretchDown_read y k (w * k) s hw hx

/-- Column p * k + q is copy q of source column p. -/
theorem replica_div {p q k : Nat} (hq : q < k) : (p * k + q) / k = p := by
  rw [Nat.add_comm, Nat.add_mul_div_right _ _ (Nat.zero_lt_of_lt hq), Nat.div_eq_of_lt hq, Nat.zero_add]

/-- The copies of the first w source columns lie in the first w * k columns. -/
theorem replica_lt {p q w k : Nat} (hp : p < w) (hq : q < k) : p * k + q < w * k := by
  rwa [← Nat.div_lt_iff_lt_mul (Nat.zero_lt_of_lt hq), replica_div hq]

/-- Settles O30, by the loop read cell by cell. -/
theorem stretchInPlaceEqualsScratch : Obligations.StretchInPlaceEqualsScratch := by
  intro y w k s _ hw
  have hin : ∀ j, j < w * k → (stretch y w k s).fbRead y j = s.fbRead y (j / k) := fun j hj => by
    rw [stretch_fbRead y w k s hw (by omega), if_pos ⟨rfl, hj⟩]
  refine ⟨hin, fun j hj hx => ?_, fun y' x' hy hx => ?_, fun p q hp hq => ?_⟩
  · rw [stretch_fbRead y w k s hw hx, if_neg fun h => Nat.not_lt.2 hj h.2]
  · rw [stretch_fbRead y w k s hw hx, if_neg fun h => hy h.1]
  · rw [hin _ (replica_lt hp hq), replica_div hq]

/-! The viewport of a frame. -/

/-- The fields of a band viewport hold the band and the width uncut (00_scope.md R8). -/
theorem bandViewport_toNat {c : Cfg} (hc : c.Ok) {w : Nat} (hw : w ≤ c.canonicalWidth) :
    (bandViewport c w).y.toNat = c.activeStart ∧ (bandViewport c w).w.toNat = w ∧
    (bandViewport c w).h.toNat = c.activeHeight := by
  have hlines := hc.lines
  have hband := hc.band
  have hfit := hc.fit
  refine ⟨?_, ?_, ?_⟩ <;> exact Nat.mod_eq_of_lt (by omega)

/-! A uniform frame. -/

/-- Settles O31: the crop writes the viewport and DIAG alone, and its fields fit 16 bits. -/
theorem uniformFrameIsCropped : Obligations.UniformFrameIsCropped := by
  intro s m hc hn hm
  rw [normalizeFrame_of_uniform (Usage.sole_of_count hn hm)]
  exact ⟨rfl, bandViewport_toNat hc (s.cfg.width_le_canonical m)⟩

/-! What the Normalizer writes. -/

/-- The Normalizer writes the viewport, DIAG, cells and the history alone (42_normalize.md R159). -/
theorem normalizeFrame_eq (s : State) :
    normalizeFrame s = { s with
      vp := (normalizeFrame s).vp, status := { s.status with diag := (normalizeFrame s).status.diag }
      fb := (normalizeFrame s).fb, hist := (normalizeFrame s).hist } := by
  apply State.ext_fields
  case h_status => exact normalizeFrame_status s
  all_goals simp

/-- Settles O36: a uniform frame writes no cell, and any other stretches band rows alone. -/
theorem normalizerFrame : Obligations.NormalizerFrame := by
  intro s hc
  refine ⟨normalizeFrame_eq s, fun hn => ?_, fun y x hx hy => ?_⟩
  · obtain ⟨m, hm⟩ := Option.isSome_iff_exists.1 (s.usage.sole_isSome.2 hn)
    rw [normalizeFrame_of_uniform hm]
    rfl
  · rw [normalizeFrame_fbRead hc y hx, if_neg fun h => hy h.2]

/-! A mixed frame. -/

/-- A frame that is not uniform, cell by cell: its band is stretched row by row (42_normalize.md R152 to R154). -/
theorem normalizeFrame_fbRead_of_not_uniform (hc : s.cfg.Ok) (hn : s.usage.count ≠ 1) (y : Nat) {x : Nat}
    (hx : x < 65536) :
    (normalizeFrame s).fbRead y x = if s.cfg.InBand y then stretchedRead s y x else s.fbRead y x := by
  rw [normalizeFrame_fbRead hc y hx]
  exact if_congr (and_iff_right (Usage.sole_eq_none.2 hn)) rfl rfl

/-- Settles O33: the row pass read cell by cell, then the canonical viewport. -/
theorem mixedFrameIsStretched : Obligations.MixedFrameIsStretched :=
  fun _ hc hn => ⟨fun y _ hx => normalizeFrame_fbRead_of_not_uniform hc hn y hx,
    normalizeFrame_of_not_uniform (Usage.sole_eq_none.2 hn)⟩

/-- A recorded row is replicated by its own factor over the canonical width (42_normalize.md R152, R154). -/
theorem stretchedRead_of_mode {y x : Nat} {m : Mode} (hr : s.recRead y = .mode m) (hx : x < s.cfg.canonicalWidth) :
    stretchedRead s y x = s.fbRead y (x / s.cfg.factor m) := by
  simp only [stretchedRead, hr, if_pos hx]

/-- A row of the canonical width is left as it is: its factor is 1 (42_normalize.md R154, R160). -/
theorem stretchedRead_of_canonical (hc : s.cfg.Ok) {y : Nat} {m : Mode} (hr : s.recRead y = .mode m)
    (hw : s.cfg.width m = s.cfg.canonicalWidth) (x : Nat) : stretchedRead s y x = s.fbRead y x := by
  rcases Nat.lt_or_ge x s.cfg.canonicalWidth with hx | hx
  · rw [stretchedRead_of_mode hr hx, hc.factor_of_canonical hw, Nat.div_one]
  · exact stretchedRead_of_canonicalWidth_le s y hx

/-- Settles O37: row r is replicated by its factor, and a canonical-width row has factor 1. -/
theorem oneNarrowRowIsReplicated : Obligations.OneNarrowRowIsReplicated := by
  intro s r m c hc hn hr hm hw hrest
  have hfit := hc.fit
  have hwidth := hc.width_mul_factor m
  refine ⟨(Nat.mul_comm _ _).trans hwidth, fun p q hp hq => ?_, fun y x hy hne hx => ?_⟩
  · have hx := hwidth ▸ replica_lt hp hq
    rw [normalizeFrame_fbRead_of_not_uniform hc hn r (by omega), if_pos hr, stretchedRead_of_mode hm hx, replica_div hq]
  · rw [normalizeFrame_fbRead_of_not_uniform hc hn y hx, if_pos hy, stretchedRead_of_canonical hc (hrest y hy hne) hw]

/-! An empty frame. -/

theorem unrecRows_of_unrec (y n : Nat) (h : ∀ k, y ≤ k → k < y + n → s.recRead k = .unrec) :
    unrecRows s y n = List.range' y n := by
  induction n generalizing y with
  | zero => rfl
  | succ n ih =>
    rw [unrecRows, if_pos (h y le_rfl (by omega)), ih (y + 1) fun k hk hlt => h k (by omega) (by omega),
      List.range'_succ]

/-- A row pass over UNREC rows writes no cell (42_normalize.md R153). -/
theorem normalizeRows_fb_of_unrec (y n : Nat) (h : ∀ k, y ≤ k → k < y + n → s.recRead k = .unrec) :
    (normalizeRows y n s).fb = s.fb := by
  induction n generalizing y s with
  | zero => rfl
  | succ n ih =>
    have hrow : normalizeRow y s = skipRow y s := by simp only [normalizeRow, h y le_rfl (by omega)]
    have hrest : ∀ k, y + 1 ≤ k → k < y + 1 + n → (skipRow y s).recRead k = .unrec := fun k hk hlt => by
      rw [State.recRead_congr (t := s) (by simp), h k (by omega) (by omega)]
    rw [normalizeRows, hrow, ih (y + 1) hrest]
    simp

/-- With no usage flag set, INV4 leaves no band row recorded (10_state.md R34). -/
theorem recRead_of_usage_none (h4 : Inv4 s) (hu : s.usage = Usage.none) {y : Nat} (hy : s.cfg.InBand y) :
    s.recRead y = .unrec := by
  cases hr : s.recRead y with
  | unrec => rfl
  | mode m =>
    have hm := (h4 m).2 ⟨y, hy, hr⟩
    rw [hu, Usage.get_none] at hm
    cases hm

/-- Settles O34: every band row is skipped, so the pass reports and counts all of them and writes no cell. -/
theorem emptyFrameReportsEveryRow : Obligations.EmptyFrameReportsEveryRow := by
  intro s hc h4 hu
  have hband : ∀ y, s.cfg.InBand y → s.recRead y = .unrec := fun y hy => recRead_of_usage_none h4 hu hy
  have hsole : s.usage.sole = none := by rw [hu]; rfl
  obtain ⟨hvp, hdiag, hhist⟩ := normalizeFrame_of_not_uniform hsole
  rw [unrecRows_of_unrec _ _ fun k hk hlt => hband k ⟨hk, hlt⟩] at hdiag hhist
  have hfb : (normalizeFrame s).fb = s.fb := by
    have hrows : ∀ k, s.cfg.activeStart ≤ k → k < s.cfg.activeStart + s.cfg.activeHeight →
        (s.setDiag 0).recRead k = .unrec := fun k hk hlt => hband k ⟨hk, hlt⟩
    simpa [normalizeFrame, hsole] using normalizeRows_fb_of_unrec _ _ hrows
  have hdiag' : (normalizeFrame s).status.diag = BitVec.ofNat 16 s.cfg.activeHeight := by
    have hlines := hc.lines
    have hheight := hc.band
    apply BitVec.eq_of_toNat_eq
    rw [hdiag, List.length_range', BitVec.toNat_ofNat]
    omega
  refine ⟨hband, ?_⟩
  rw [normalizeFrame_eq, hvp, hdiag', hfb, hhist]
  rfl

/-! The record and the usage flags at a wrap. -/

/-- While FATAL = 0 the invariant passes the entry checks of a TICK (40_tick.md R100). -/
theorem Running.entryOk (h : Running s) (hf : s.status.fatal = false) : EntryOk s :=
  ⟨hf, h.inv1, h.inv2⟩

/-- Settles O35: the line leaves the rows behind the frame recorded and those ahead UNREC, and the wrap keeps the
record. -/
theorem unreachedRowsAreUnrec : Obligations.UnreachedRowsAreUnrec := by
  intro s t h hf he _ y hy
  have hrun := h.running hf
  obtain ⟨hrec, -⟩ := execTick_afterLine h.cfgOk (hrun.entryOk hf) he
  have hrows := hrun.rowsInv_endLine h.cfgOk
  rw [State.recRead_congr hrec]
  refine ⟨fun hu => ?_, hrows.ahead y⟩
  by_contra hlt
  exact hrows.behind y (by simpa using hy) (by omega) hu

/-- A frame all of whose band rows are recorded at mode m is uniform: the band is not empty, so m's flag is set, and no
other is (10_state.md R34). -/
theorem sole_of_band_mode {m : Mode} (hc : s.cfg.Ok) (h4 : Inv4 s) (hm : ∀ y, s.cfg.InBand y → s.recRead y = .mode m) :
    s.usage.sole = some m := by
  have hfirst : s.cfg.InBand s.cfg.activeStart := ⟨le_rfl, Nat.lt_add_of_pos_right hc.band.1⟩
  refine Usage.sole_eq_some.2 ⟨(h4 m).2 ⟨_, hfirst, hm _ hfirst⟩, fun k hk => ?_⟩
  obtain ⟨y, hy, hr⟩ := (h4 k).1 hk
  exact RecCode.mode.inj (hr.symm.trans (hm y hy))

/-- Settles O32: with one mode in every band row the frame is uniform, and its end crops it. -/
theorem frameOfOneModeRoundTrips : Obligations.FrameOfOneModeRoundTrips := by
  intro s t m h hf he hfr hm
  have hc := h.cfgOk
  have hrun := h.running hf
  have hen := hrun.entryOk hf
  obtain ⟨hrec, -⟩ := execTick_afterLine hc hen he
  have hcfg : (endLine s).cfg = s.cfg := by simp
  have hsole : (endLine s).usage.sole = some m :=
    sole_of_band_mode (hcfg ▸ hc) (hrun.rowsInv_endLine hc).inv4 fun y hy => by
      rw [← State.recRead_congr hrec, hm y (hcfg ▸ hy)]
  have hcount : (endLine s).usage.count = 1 := (endLine s).usage.sole_isSome.1 (by rw [hsole]; rfl)
  obtain ⟨-, -, -, -, huniform, -⟩ := tickNormalizesAtWrap s t hc hen he hfr
  rw [tickLine_state hc hen] at huniform ⊢
  exact huniform m hcount (Usage.sole_eq_some.1 hsole).1

end Sys2Proof.Machine

/-! SUPPORT. The host commands POWER, RDPIX and RDREC (43_host_commands.md R171, R172, R174), the frame of the reads
(R175) and the read window (R176). -/

namespace Sys2Proof.Machine

variable {s : State}

/-! POWER. -/

/-- The power calls change the history alone (44_collaborator_interface.md R201). -/
theorem State.callPower_eq (s : State) : s.callPower = { s with hist := s.callPower.hist } := by
  simp only [State.callPower]
  split <;> rfl

/-- The halted state ignores TICK (60_exceptions.md R213). -/
theorem execTick_of_fatal (hf : s.status.fatal = true) : exec .tick s = .next s :=
  execTick_of_step0_stop (tickStep0_of_fatal hf)

/-- Settles O9: the reset and the calls one after the other; a TICK makes no power call and is ignored while halted, and
every other command leaves history and FATAL alone. -/
theorem powerResets : Obligations.PowerResets := by
  refine ⟨decode_of_power_row rfl, fun s => ?_, fun i s t hp he => ?_⟩
  · have hexec : exec .power s = .next (powerReset s).callPower := rfl
    rw [hexec, State.callPower_eq, State.callPower_hist]
    rfl
  · by_cases hi : i = .tick
    · subst hi
      obtain ⟨⟨-, es, hhist, hev⟩, -⟩ := execTick_logs he
      refine ⟨⟨es, hhist, fun e hmem => (hev e hmem).1⟩, fun hf => ?_⟩
      rw [execTick_of_fatal hf] at he
      cases he
      exact hf
    · have h := exec_sameEngine hi hp he
      exact ⟨⟨[], by simp [h.hist], by simp⟩, fun hf => h.fatal.trans hf⟩

/-! The reads, outcome by outcome. -/

/-- A draw writes the tape and the count of draws alone (00_scope.md R12). -/
theorem State.draw_snd_eq (s : State) : s.draw.2 = { s with tape := s.draw.2.tape, draws := s.draw.2.draws } := by
  unfold State.draw
  split <;> rfl

/-- Settles O45: the three outcomes of a read, of which the Range fault alone writes RANGE, and logs it. -/
theorem readsChangeOnlyTheResponse : Obligations.ReadsChangeOnlyTheResponse := by
  intro i s t hi he
  obtain ⟨v, rfl⟩ | ⟨v, rfl⟩ | ⟨w, rfl⟩ := exec_read_outcome hi he
  · exact ⟨rfl, fun _ => rfl⟩
  · rw [State.draw_snd_eq]
    exact ⟨rfl, fun _ => rfl⟩
  · exact ⟨rfl, fun h => by simp at h⟩

/-- Outside the read window a cell answers with a draw (43_host_commands.md R172, R176). -/
theorem exec_rdpix_of_windowClosed {x y : BitVec 14} (hc : HasCell s.cfg x y) (hf : s.status.fr = false) :
    exec (.rdpix x y) s = .next (s.draw.2.setResp (cutColor s.cfg s.draw.1)) := by
  rw [exec, execRdpix, if_pos hc, if_neg (by simp [State.windowOpen, hf])]
  rfl

/-- Settles O38, case by case. -/
theorem rdpixResult : Obligations.RdpixResult :=
  fun _ _ _ => ⟨fun hx hy hf => exec_rdpix_of_windowOpen ⟨hx, hy⟩ hf,
    fun hx hy hf => exec_rdpix_of_windowClosed ⟨hx, hy⟩ hf, fun h => exec_rdpix_of_not_hasCell h⟩

/-- Settles O41: each record code widened to the response. -/
theorem rdrecResult : Obligations.RdrecResult := by
  refine fun y s => ⟨fun hy => ?_, fun hy => exec_rdrec_of_not_hasRow hy⟩
  rw [exec_rdrec_of_hasRow hy]
  rcases s.recRead y.toNat with _ | (_ | _ | _) <;> rfl

/-! The read window. -/

/-- Every word is some answer's (43_host_commands.md R173). -/
theorem wordOf_toNat (v : Word) : wordOf v.toNat = v := by
  rw [wordOf, BitVec.ofInt_natCast, BitVec.ofNat_toNat, BitVec.setWidth_eq]

/-- Settles O48: outside the window the answer on the tape is the response, inside it the state's value is. -/
theorem readWindow : Obligations.ReadWindow := by
  refine ⟨fun x y s v hf hx hy hv => ⟨_, exec_rdpix_of_windowClosed ⟨hx, hy⟩ hf, ?_⟩,
    fun r s v hr hf => ⟨_, exec_rdreg_of_windowClosed hf hr, ?_⟩,
    fun x y s hf hx hy => ⟨_, exec_rdpix_of_windowOpen ⟨hx, hy⟩ hf, rfl⟩,
    fun r s hf => ⟨_, exec_rdreg_of_constrained (.inl hf), rfl⟩⟩
  · rw [State.draw_of_tape rfl]
    exact cutColor_surjective hv
  · rw [State.draw_of_tape rfl]
    exact wordOf_toNat v

end Sys2Proof.Machine

/-! SUPPORT. Single-chip mode (44_collaborator_interface.md R203). -/

namespace Sys2Proof.Machine

variable {s : State}

/-- In single-chip mode POWER calls chip A, the color encoder and the DMA stepper alone (44_collaborator_interface.md
R201, R203). -/
theorem execPower_hist_of_single (hd : s.cfg.dual = false) :
    (powerReset s).callPower.hist = s.hist ++ [.powerc .a, .powerc .vce, .powerc .dma] := by
  simp [State.callPower_hist, hd]

/-- Settles O15: the events of a TICK by its growth, POWER by its calls, and no other command appends an event. -/
theorem singleChipModeNeverNamesChipB : Obligations.SingleChipModeNeverNamesChipB := by
  intro i s t hd he
  by_cases hi : i = .tick
  · subst hi
    obtain ⟨⟨-, es, hh, htick⟩, -⟩ := execTick_logs he
    exact ⟨es, hh, fun e hm => (htick e hm).2 hd⟩
  by_cases hp : i = .power
  · subst hp
    cases he
    exact ⟨_, execPower_hist_of_single hd, by decide⟩
  · exact ⟨[], by simp [(exec_sameEngine hi hp he).hist], nofun⟩

end Sys2Proof.Machine

/-! SUPPORT. The exceptions (60_exceptions.md R210 to R219): where a fatal fault finds a TICK, the STATUS bits that stay
until POWER, the words that raise Range and Illegal, and the halted state. -/

namespace Sys2Proof.Machine

variable {i : Instr} {s t u : State} {w : Word}

/-! The only fault that a TICK can raise under the invariant (60_exceptions.md R212). -/

/-- Settles O12: the invariant passes the entry checks, and the refused threshold has its answer in the history. -/
theorem onlyThresholdFaultIsReachable : Obligations.OnlyThresholdFaultIsReachable := by
  intro s t h he
  cases hf : s.status.fatal with
  | true =>
    rw [execTick_of_fatal hf] at he
    cases he
    exact .inl rfl
  | false =>
    have hc := h.cfgOk
    have hen := (h.running hf).entryOk hf
    obtain ⟨ht, -⟩ | ⟨hl, hb, rfl⟩ := execTick_outcome hc hen he
    · exact .inl (tickCompleted_of_thresholdOk hc hen ht he).faults
    · obtain ⟨-, es, hh, -⟩ := endLine_growth s
      refine .inr ⟨hl, extraAnswer s, ?_, by simp [FatalCause.code], ?_⟩
      · by_contra hn
        exact hb fun _ => by omega
      · simp [newEvents, hh, extraAnswer_eq hc hen]

/-! The events of a line, none of which belongs to the end of a frame (40_tick.md R115). -/

/-- The event is one of the end of a frame: the frame-complete signal or a diagnostic (40_tick.md R111,
42_normalize.md R153). -/
def Event.endsFrame : Event → Bool
  | .frameDone => true
  | .diag _ => true
  | _ => false

theorem eq_hook_of_mem_chipEvents {c : Cfg} {hook : Chip → Event} {e : Event} (h : e ∈ chipEvents c hook) :
    ∃ k, e = hook k := by
  unfold chipEvents at h
  split at h
  · obtain h | h : e = hook .a ∨ e = hook .b := by simpa using h
    · exact ⟨_, h⟩
    · exact ⟨_, h⟩
  · exact ⟨_, List.mem_singleton.1 h⟩

theorem pixelEvents_not_endsFrame (c : Cfg) (g : Bool) (x : Nat) (px : List (Index × Color)) :
    ∀ e ∈ pixelEvents c g x px, e.endsFrame = false := by
  induction px generalizing x with
  | nil => nofun
  | cons p rest ih => exact List.forall_mem_cons.2 ⟨rfl, List.forall_mem_cons.2 ⟨rfl, ih (x + 1)⟩⟩

theorem composerEvents_not_endsFrame (c : Cfg) (m : Mode) (g : Bool) (px : List (Index × Color)) :
    ∀ e ∈ composerEvents c m g px, e.endsFrame = false := by
  refine List.forall_mem_cons.2 ⟨rfl, List.forall_mem_cons.2 ⟨rfl, List.forall_mem_append.2 ⟨?_, ?_⟩⟩⟩
  · split
    · simp [Event.endsFrame]
    · nofun
  · exact pixelEvents_not_endsFrame c g 0 px

theorem lineEvents_not_endsFrame {comp : List Event} (h : ∀ e ∈ comp, e.endsFrame = false) :
    ∀ e ∈ lineEvents s comp, e.endsFrame = false := by
  have hchips : ∀ {hook : Chip → Event}, (∀ k, (hook k).endsFrame = false) →
      ∀ e ∈ chipEvents s.cfg hook, e.endsFrame = false := fun hk e he => by
    obtain ⟨k, rfl⟩ := eq_hook_of_mem_chipEvents he
    exact hk k
  have hdma : ∀ n, ∀ e ∈ [Event.dma n], e.endsFrame = false := fun n => by simp [Event.endsFrame]
  have hvsync : ∀ e ∈ (if s.vcounter.toNat = 0 then chipEvents s.cfg .vsync else []), e.endsFrame = false := by
    split
    · exact hchips fun _ => rfl
    · nofun
  simp only [lineEvents, List.forall_mem_append]
  exact ⟨⟨⟨⟨⟨⟨hchips fun _ => rfl, hvsync⟩, hdma _⟩, hchips fun _ => rfl⟩, h⟩, hdma _⟩, hchips fun _ => rfl⟩

/-- The events of n columns, whatever the configuration (41_compose.md R134). -/
theorem composeColumns_hist (y : Nat) (g : Bool) (x n : Nat) (s : State) :
    ∃ px, (composeColumns y g x n s).hist = s.hist ++ pixelEvents s.cfg g x px := by
  induction n generalizing x s with
  | zero => exact ⟨[], by simp [composeColumns, pixelEvents]⟩
  | succ n ih =>
    obtain ⟨i, v, -, hh, -⟩ := composePixel_spec y g x s
    obtain ⟨px, hpx⟩ := ih (x + 1) (composePixel y g x s)
    exact ⟨(i, v) :: px, by simp [composeColumns, hpx, hh, pixelEvents]⟩

/-- The events of a composed row, whatever the configuration (41_compose.md R138). -/
theorem composeRow_hist (y : Nat) (s : State) :
    ∃ m g px, (composeRow y s).hist = s.hist ++ composerEvents s.cfg m g px := by
  obtain ⟨px, hpx⟩ := composeColumns_hist y s.queryWidth.2.queryGray.1 0 (s.cfg.width s.queryWidth.1)
    s.queryWidth.2.queryGray.2.callRender
  exact ⟨s.queryWidth.1, s.queryWidth.2.queryGray.1, px, by
    simp [composeRow, hpx, State.callRender_hist, composerEvents]⟩

/-- From s to u the history grew by events none of which belongs to the end of a frame. -/
def NoFrameEnd (s u : State) : Prop :=
  ∃ es, u.hist = s.hist ++ es ∧ ∀ e ∈ es, e.endsFrame = false

theorem endLine_noFrameEnd (s : State) : NoFrameEnd s (endLine s) := by
  by_cases hb : s.cfg.InBand s.vcounter.toNat
  · have hrow : bandRow (beforeBand s) = composeRow s.vcounter.toNat (beforeBand s) := by simp [bandRow, hb]
    obtain ⟨m, g, px, hh⟩ := composeRow_hist s.vcounter.toNat (beforeBand s)
    exact ⟨_, endLine_hist (hrow ▸ hh), lineEvents_not_endsFrame (composerEvents_not_endsFrame _ m g px)⟩
  · exact ⟨_, endLine_hist_of_not_inBand hb, lineEvents_not_endsFrame nofun⟩

theorem NoFrameEnd.queryExtra (h : NoFrameEnd s u) : NoFrameEnd s u.queryExtra.2 := by
  obtain ⟨es, hh, hes⟩ := h
  refine ⟨es ++ [.extra u.queryExtra.1], by rw [State.queryExtra_hist, hh, List.append_assoc], ?_⟩
  exact List.forall_mem_append.2 ⟨hes, by simp [Event.endsFrame]⟩

/-! Where a fatal fault finds a TICK (60_exceptions.md R211). -/

/-- What a TICK has done to the fault log, STATUS, the viewport and the history before the end of a frame. -/
structure BeforeFrameEnd (s u : State) : Prop where
  faults : u.faults = s.faults
  status : u.status = { s.status with fr := false }
  vp : u.vp = s.vp
  events : NoFrameEnd s u

/-- The inversion of a TICK by its STATUS and its events: ignored, stopped by a fatal fault, or completed with or
without the end of a frame (60_exceptions.md R211, R213). -/
theorem execTick_beforeFrameEnd (he : exec .tick s = .next t) :
    t = s ∨ ∃ u, BeforeFrameEnd s u ∧ ((∃ k info, t = u.raiseFatal k info) ∨ t = u ∨ t = endFrame u) := by
  have hline := endLine_noFrameEnd s
  obtain ⟨-, rfl⟩ | ⟨-, ⟨u, k, info, hu, rfl⟩ | ⟨u, hu, ht⟩⟩ := execTick_inv he
  · exact .inl rfl
  · refine .inr ⟨u, ?_, .inl ⟨k, info, rfl⟩⟩
    obtain rfl | rfl | rfl | rfl := hu
    · exact ⟨by simp, by simp, by simp, [], by simp, nofun⟩
    · exact ⟨by simp, by simp, by simp, hline⟩
    · exact ⟨by simp, by simp, by simp, hline⟩
    · exact ⟨by simp, by simp, by simp, hline.queryExtra⟩
  · refine .inr ⟨u, ?_, .inr ht⟩
    obtain rfl | ⟨v, rfl⟩ := hu
    · exact ⟨by simp, by simp, by simp, hline⟩
    · exact ⟨by simp, by simp, by simp, hline.queryExtra⟩

/-- Settles O19: of the ends of a TICK the fatal fault alone sets FATAL, and it finds no more than the line done. -/
theorem fatalFaultStopsTheTick : Obligations.FatalFaultStopsTheTick := by
  intro s t hf he hft
  obtain rfl | ⟨u, hu, ⟨k, info, rfl⟩ | rfl | rfl⟩ := execTick_beforeFrameEnd he
  · simp [hf] at hft
  · obtain ⟨es, hh, hes⟩ := hu.events
    refine ⟨k, info, by simp [hu.faults], by simp [hu.status], by simp [hu.status], by simp [hu.vp],
      by simp [hu.status], fun e hm => ?_⟩
    have hend : e.endsFrame = false := hes e (by simpa [newEvents, hh] using hm)
    exact ⟨fun h => by simp [h, Event.endsFrame] at hend, fun y h => by simp [h, Event.endsFrame] at hend⟩
  · simp [hu.status, hf] at hft
  · rw [endFrame_status] at hft
    simp [hu.status, hf] at hft

/-! The STATUS bits that stay until POWER (60_exceptions.md R211 to R215, R219). -/

/-- ILL, RANGE and FATAL stay set from s to t, and so does a CAUSE other than 0. -/
structure KeepsFaultStatus (s t : State) : Prop where
  ill : s.status.ill = true → t.status.ill = true
  range : s.status.range = true → t.status.range = true
  fatal : s.status.fatal = true → t.status.fatal = true
  cause : s.status.cause ≠ 0 → t.status.cause = s.status.cause

/-- A write to FR and DIAG alone keeps them. -/
theorem KeepsFaultStatus.of_status {b : Bool} {d : BitVec 16} (h : t.status = { s.status with fr := b, diag := d }) :
    KeepsFaultStatus s t := by
  constructor <;> simp +contextual [h]

theorem KeepsFaultStatus.raiseFatal (h : KeepsFaultStatus s u) (k : FatalCause) (info : Int) :
    KeepsFaultStatus s (u.raiseFatal k info) where
  ill := h.ill
  range := h.range
  fatal _ := rfl
  cause hne := by
    have hu := h.cause hne
    rw [State.raiseFatal_status, if_neg (hu ▸ hne), hu]

theorem execTick_keepsFaultStatus (he : exec .tick s = .next t) : KeepsFaultStatus s t := by
  obtain rfl | ⟨u, hu, ht⟩ := execTick_beforeFrameEnd he
  · exact .of_status rfl
  · obtain ⟨k, info, rfl⟩ | rfl | rfl := ht
    · exact (KeepsFaultStatus.of_status hu.status).raiseFatal k info
    · exact .of_status hu.status
    · exact .of_status ((endFrame_status u).trans (by rw [hu.status]))

/-- No command but POWER clears ILL, RANGE or FATAL, or changes a CAUSE that is set. -/
theorem exec_keepsFaultStatus (hp : i ≠ .power) (he : exec i s = .next t) : KeepsFaultStatus s t := by
  by_cases hi : i = .tick
  · subst hi
    exact execTick_keepsFaultStatus he
  · obtain ⟨rfl, -⟩ | ⟨-, ⟨v, rfl⟩ | ⟨v, rfl⟩ | ⟨v, rfl⟩⟩ | ⟨v, -, rfl⟩ := exec_cases hi he
    · exact absurd rfl hp
    all_goals constructor <;> simp

/-- Settles O50. -/
theorem fatalStaysUntilPower : Obligations.FatalStaysUntilPower := fun _ _ _ hp he =>
  have h := exec_keepsFaultStatus hp he
  ⟨h.fatal, h.cause⟩

/-! The words that raise Range and Illegal (60_exceptions.md R214, R215). -/

/-- Settles O43: the word that the fault logs is the one sent, for the encoder gives back the decoded word. -/
theorem rangeFault : Obligations.RangeFault := by
  refine ⟨fun w s h => ?_, fun _ _ _ hp he => (exec_keepsFaultStatus hp he).range⟩
  have hraise : exec (decode w) s = .next (s.raiseRange (encode (decode w))) := by
    obtain ⟨x, y, hd, hxy⟩ | ⟨y, hd, hy⟩ := h <;> rw [hd]
    · exact exec_rdpix_of_not_hasCell hxy
    · exact exec_rdrec_of_not_hasRow hy
  rw [hraise, encode_decode]
  rfl

/-- An illegal word decodes to a command that holds the word itself (30_encoding.md R75). -/
theorem eq_of_decode_eq_illegal {u : Word} (h : decode w = .illegal u) : u = w := by
  have hw := encode_decode w
  rwa [h] at hw

/-- Settles O44: the word that the fault logs is the one sent. -/
theorem illegalCommand : Obligations.IllegalCommand := by
  refine ⟨fun w u s h => ?_, fun _ _ _ hp he => (exec_keepsFaultStatus hp he).ill⟩
  rw [h, eq_of_decode_eq_illegal h]
  rfl

/-! The halted state (60_exceptions.md R213). -/

/-- The state with FATAL as given. -/
def State.withFatal (s : State) (b : Bool) : State :=
  s.setStatus { s.status with fatal := b }

theorem State.withFatal_of_eq {b : Bool} (a : Bool) (h : s.status.fatal = b) : (s.withFatal a).withFatal b = s := by
  subst h
  rfl

/-- A draw does not depend on FATAL. -/
theorem State.draw_withFatal (s : State) (b : Bool) :
    (s.withFatal b).draw = (s.draw.1, s.draw.2.withFatal b) := by
  unfold State.draw
  simp only [State.withFatal, State.setStatus_tape]
  split <;> rfl

/-- The value of every register but STATUS does not depend on FATAL. -/
theorem State.readReg_withFatal {r : Reg} (hr : r ≠ .status) (b : Bool) : (s.withFatal b).readReg r = s.readReg r := by
  cases r with
  | status => exact absurd rfl hr
  | _ => rfl

/-- A read other than that of STATUS does the same whatever FATAL is, and keeps FATAL. -/
theorem exec_read_withFatal (hi : isReadCommand i = true) (hst : i ≠ .rdreg .status) (b : Bool)
    (he : exec i s = .next t) : exec i (s.withFatal b) = .next (t.withFatal b) := by
  cases i with
  | tick => cases hi
  | power => cases hi
  | illegal w => cases hi
  | rdpix x y =>
    by_cases hc : HasCell s.cfg x y
    · cases hw : s.status.fr with
      | true =>
        rw [exec_rdpix_of_windowOpen hc hw] at he
        cases he
        exact exec_rdpix_of_windowOpen (s := s.withFatal b) hc hw
      | false =>
        rw [exec_rdpix_of_windowClosed hc hw] at he
        cases he
        rw [exec_rdpix_of_windowClosed (s := s.withFatal b) hc hw, State.draw_withFatal]
        rfl
    · rw [exec_rdpix_of_not_hasCell hc] at he
      cases he
      exact exec_rdpix_of_not_hasCell (s := s.withFatal b) hc
  | rdreg r =>
    have hr : r ≠ .status := fun h => hst (h ▸ rfl)
    by_cases hw : s.status.fr = true ∨ isViewportReg r = false
    · rw [exec_rdreg_of_constrained hw] at he
      cases he
      rw [exec_rdreg_of_constrained (s := s.withFatal b) hw, State.readReg_withFatal hr]
      rfl
    · obtain ⟨hf, hv⟩ : s.status.fr = false ∧ isViewportReg r = true := by simpa using hw
      rw [exec_rdreg_of_windowClosed hf hv] at he
      cases he
      rw [exec_rdreg_of_windowClosed (s := s.withFatal b) hf hv, State.draw_withFatal]
      rfl
  | rdrec y =>
    by_cases hr : HasRow s.cfg y
    · rw [exec_rdrec_of_hasRow hr] at he
      cases he
      exact exec_rdrec_of_hasRow (s := s.withFatal b) hr
    · rw [exec_rdrec_of_not_hasRow hr] at he
      cases he
      exact exec_rdrec_of_not_hasRow (s := s.withFatal b) hr

/-- After POWER a TICK passes its entry checks (43_host_commands.md R171, 40_tick.md R100). -/
theorem execPower_entryOk (hc : s.cfg.Ok) : EntryOk (powerReset s).callPower := by
  have hrun : Running (powerReset s).callPower :=
    running_of_cleared (by simpa using hc) (by simp) (by simp) (by simp) (by simp) (by simp)
  exact hrun.entryOk (by simp)

/-- Settles O49, command by command. -/
theorem haltedState : Obligations.HaltedState := by
  intro s hf
  refine ⟨execTick_of_fatal hf, fun i t hi hst he => ?_, ?_, fun w => ⟨_, rfl, rfl, rfl⟩, ?_⟩
  · have h := exec_read_withFatal hi hst true (s := s.withFatal false) he
    rwa [State.withFatal_of_eq false hf] at h
  · obtain ⟨-, hfatal, -, -, -, -, -, -, hcause, -⟩ := statusWordLayout s
    exact ⟨_, exec_rdreg_of_constrained (.inr rfl), hfatal.trans hf, hcause⟩
  · exact ⟨_, rfl, by simp, by simp, by simp, execPower_entryOk⟩

end Sys2Proof.Machine

/-! SUPPORT. The values after load and after POWER (70_reset_and_hazards.md R240). -/

namespace Sys2Proof.Machine

variable {s : State}

theorem State.load_of_failing {c : Cfg} {k : CfgCheck} (h : c.failing = some k) : State.load c = .error k := by
  simp only [State.load, h]

theorem State.load_of_ok {c : Cfg} (h : c.Ok) : State.load c = .ok (State.initial c) := by
  simp only [State.load, h]

theorem State.recRead_of_record_nil (h : s.record = []) (y : Nat) : s.recRead y = .unrec := by
  simp only [State.recRead, h, Memory.lookup]

/-- With status and usage flags clear, DUAL is the one bit of the status word that can be set (10_state.md R29). -/
theorem State.statusWord_of_cleared (hs : s.status = ⟨false, false, false, false, 0, 0⟩) (hu : s.usage = Usage.none) :
    s.statusWord = if s.cfg.dual then 0x10#32 else 0#32 := by
  rw [State.statusWord, hs, hu]
  cases s.cfg.dual <;> rfl

/-- Settles O8: the load state and, by O9, the state after POWER are explicit, so every field but the record, the status
word and the history is read off. -/
theorem loadAndPowerValues : Obligations.LoadAndPowerValues := by
  refine ⟨fun _ _ h => State.load_of_failing h, fun c hc => ?_, fun s => ?_⟩
  · exact ⟨_, State.load_of_ok hc, rfl, rfl, rfl, rfl, rfl, rfl, State.recRead_of_record_nil rfl, fun _ _ => rfl, rfl,
      rfl, State.statusWord_of_cleared rfl rfl, rfl, rfl, rfl⟩
  · obtain ⟨-, hpower, -⟩ := powerResets
    refine ⟨_, hpower s, rfl, rfl, rfl, rfl, rfl, rfl, State.recRead_of_record_nil rfl, State.fbRead_congr rfl rfl, rfl,
      rfl, State.statusWord_of_cleared rfl rfl, rfl, ⟨_, rfl, ?_⟩, rfl⟩
    cases s.cfg.dual <;> simp

end Sys2Proof.Machine
